-- ==== Sys2Proof/Word.lean ====
section
/-! DEFINITION. Number domains of the machine (00_scope.md R7, R8; 10_state.md R24) and the binary instruction word. -/

namespace Sys2Proof

/-- What ACC, R1, R2 and every memory cell hold: a mathematical integer, unbounded (10_state.md R24). -/
abbrev Value := Int

/-- A binary instruction word of `9 + immW` bits, bit 0 least significant (30_encoding.md R72; 32 bits with IMM_W = 23). -/
abbrev InstrWord (immW : Nat) := BitVec (9 + immW)

end Sys2Proof
end

