-- ==== Sys2Proof/Config.lean ====
section
/-! DEFINITION. The implementation parameters of 00_scope.md R7. -/

namespace Sys2Proof

/-- MEM_SIZE where the construction names none: "positive integer, default 100" (00_scope.md R7, 48_host_interface.md R180). -/
def Config.memSizeDefault : Nat := 100

/-- IMM_W where nothing else is said: 23, a 32-bit word (00_scope.md R7, 30_encoding.md R72). -/
def Config.immW : Nat := 23

/-- One less than MAX_STEPS. MAX_STEPS is OPEN (00_scope.md R7, 92 D23): "the model must not fix its value", so nothing in
Lean can evaluate this constant (log 4, DESIGN CHOICE: the form, safe). -/
opaque Config.maxStepsLessOne : Nat

/-- MAX_STEPS, the step ceiling of the machine that `step` runs: some positive integer (00_scope.md R7, 92 D40). -/
def Config.maxSteps : Nat := Config.maxStepsLessOne + 1

end Sys2Proof
end

