-- ==== Sys2Proof/Syntax.lean ====
section
/-! DEFINITION. The decoded instruction, the tuple (op, mode, reg, n) of 30_encoding.md R71. -/

namespace Sys2Proof

/-- The addressing-mode variant (30_encoding.md R71, R74). -/
inductive Mode where
  /-- NONE, number 0: no operand token. -/
  | none
  /-- IMM, number 1: immediate `#n`. -/
  | imm
  /-- IND, number 2: indirect `@n`. -/
  | ind
  /-- REL, number 3: relative `+n`. -/
  | rel
  /-- IDX, number 4: indexed `n(R1)`, `n(R2)`. -/
  | idx
  /-- REG, number 5: register direct `ACC`, `R1`, `R2`. -/
  | reg
  /-- DIR, number 6: direct, bare integer `n`. -/
  | dir
  /-- BAD, number 7: a token that failed to parse. -/
  | bad
  deriving DecidableEq, Repr

/-- The register field (30_encoding.md R71, R76). -/
inductive RegSel where
  /-- Number 0: ACC in mode REG, "the token named ACC" in mode IDX, the required value in every other mode. -/
  | acc
  /-- Number 1: R1. -/
  | r1
  /-- Number 2: R2. -/
  | r2
  /-- Number 3: reserved in mode REG, "named some other register" in mode IDX. -/
  | other
  deriving DecidableEq, Repr

/-- The three operand fields of a decoded instruction (30_encoding.md R71), flat: a stray field is data, and `OperandCheck`
raises an error for it when the instruction is executed (30_encoding.md R77). -/
structure Operand where
  mode : Mode
  reg  : RegSel
  n    : Int
  deriving DecidableEq, Repr

/-- The eight instructions, one constructor per row of spec/opcode_table.json (30_encoding.md R70, R73). Every one carries the
operand fields, HALT too: they are part of the tuple though HALT ignores them (45_halt.md R155). -/
inductive Instr where
  | load   (o : Operand)
  | store  (o : Operand)
  | add    (o : Operand)
  | sub    (o : Operand)
  | output (o : Operand)
  | jmp    (o : Operand)
  | jz     (o : Operand)
  | halt   (o : Operand)
  deriving DecidableEq, Repr

/-- A decoded instruction: one of the eight, or UNKNOWN(k) with its operand fields (30_encoding.md R71). UNKNOWN is no row of the
opcode table and so no constructor of `Instr` (log 7). -/
inductive Decoded where
  | known   (i : Instr)
  | unknown (k : Nat) (o : Operand)
  deriving DecidableEq, Repr

/-- The operand fields of an instruction. -/
def Instr.operand : Instr → Operand
  | .load o => o
  | .store o => o
  | .add o => o
  | .sub o => o
  | .output o => o
  | .jmp o => o
  | .jz o => o
  | .halt o => o

/-- The operand fields of a decoded instruction. -/
def Decoded.operand : Decoded → Operand
  | .known i => i.operand
  | .unknown _ o => o

end Sys2Proof
end

