-- ==== Sys2Proof/Machine/State.lean ====
section
/-! DEFINITION. The nine items of state of 10_state.md R20, and the machine after construction (R35). -/

namespace Sys2Proof.Machine

/-- The Execution Status (10_state.md R29). -/
inductive Status where
  | idle
  | running
  | halted
  | faulted
  deriving DecidableEq, Repr

/-- The seven errors (60_exceptions.md R200). -/
inductive ErrKind where
  | unknownOpcode
  | unsupportedAddressingMode
  | invalidDestination
  | malformedOperand
  | outOfRangeAddress
  | emptyProgram
  | stepLimitExceeded
  deriving DecidableEq, Repr

/-- The error report (60_exceptions.md R211): `pc` where it was raised, the instruction and the integer, or absent. -/
structure ErrReport where
  kind  : ErrKind
  pc    : Nat
  instr : Option Decoded
  info  : Option Int
  deriving DecidableEq, Repr

/-- One listed cell of MEM: its address and its integer (20_memory.md R51; log 6). -/
abbrev Cell := Nat × Value

/-- MEM: a sequence of `size` cells, the size fixed at construction (10_state.md R26). A cell that is not listed holds 0
("initialized to zero"); `Memory.wf` is the one canonical form (log 3, log 6). -/
structure Memory where
  size  : Nat
  cells : List Cell
  deriving DecidableEq, Repr

/-- Canonical form: at least one cell, addresses strictly rising and below the size, and no listed 0. -/
abbrev Memory.wf (m : Memory) : Prop :=
  0 < m.size ∧ m.cells.Pairwise (fun c d => c.1 < d.1) ∧ ∀ c ∈ m.cells, c.1 < m.size ∧ c.2 ≠ 0

/-- The complete state of one machine, exactly the nine items of 10_state.md R20. -/
structure State where
  /-- ACC, the accumulator (R21). -/
  acc    : Value
  /-- R1 (R22). -/
  r1     : Value
  /-- R2 (R22). -/
  r2     : Value
  /-- PC, the index of the next instruction to fetch (R23). -/
  pc     : Nat
  /-- MEM, the data memory (R26). -/
  mem    : Memory
  /-- PROG, the loaded program; LEN is its length (R27). -/
  prog   : List Decoded
  /-- STATUS, the execution status (R29). -/
  status : Status
  /-- STEP, the completed steps of the current run (R30). -/
  step   : Nat
  /-- ERR, the last error report (R31). -/
  err    : Option ErrReport
  deriving DecidableEq, Repr

/-- Where the machine has no transition of its own. The seven errors of the spec are none of these: they are next states
(60_exceptions.md R212, R216). -/
inductive Fault where
  /-- Raised by the loop when STATUS is Idle, Halted or Faulted: only the host's load or run leaves these
  (47_execution_loop.md R160, R162). A stuck state, safe (log 8). -/
  | notRunning
  deriving DecidableEq, Repr

/-- Refusals. -/
inductive Refusal where
  /-- An instruction without a meaning in this model; no arm of `exec` answers it. Safe. -/
  | notModelled (mnemonic : String)
  deriving DecidableEq, Repr

/-- Memory after construction: every cell 0 (10_state.md R35). -/
def Memory.zeroed (size : Nat) : Memory :=
  ⟨size, []⟩

/-- The machine right after construction with `size` memory cells (10_state.md R35; the zeros of ACC, R1, R2 and PC are the
spec's decision D19, log 1; PROG, STEP and ERR its decision D20, log 2). -/
def State.constructed (size : Nat) : State where
  acc    := 0
  r1     := 0
  r2     := 0
  pc     := 0
  mem    := Memory.zeroed size
  prog   := []
  status := .idle
  step   := 0
  err    := none

/-- The machine right after reset, that is, construction with the default MEM_SIZE (10_state.md R35, 70_reset_and_hazards.md R230). -/
def State.reset : State :=
  State.constructed Config.memSizeDefault

end Sys2Proof.Machine
end

