-- ==== Sys2Proof/Machine/Ops.lean ====
section
/-! DEFINITION. The named operations over registers and memory (10_state.md R36, 20_memory.md R54, R55), the fault entry
(60_exceptions.md R212) and the numeric codes of the spec. -/

namespace Sys2Proof.Machine

/-! ### Writes of one item of state -/

def State.setAcc (s : State) (v : Value) : State := { s with acc := v }
def State.setR1 (s : State) (v : Value) : State := { s with r1 := v }
def State.setR2 (s : State) (v : Value) : State := { s with r2 := v }
def State.setPc (s : State) (t : Nat) : State := { s with pc := t }
def State.setMem (s : State) (m : Memory) : State := { s with mem := m }
def State.setProg (s : State) (p : List Decoded) : State := { s with prog := p }
def State.setStatus (s : State) (x : Status) : State := { s with status := x }
def State.setStep (s : State) (n : Nat) : State := { s with step := n }
def State.setErr (s : State) (e : Option ErrReport) : State := { s with err := e }

/-! ### Registers -/

/-- The registers an operand can name (30_encoding.md R76): PC is not among them (10_state.md R23). -/
inductive Reg where
  | acc
  | r1
  | r2
  deriving DecidableEq, Repr

/-- The register that the field names in mode REG; none for the reserved number 3 (30_encoding.md R76). -/
def namedReg : RegSel → Option Reg
  | .acc => some .acc
  | .r1 => some .r1
  | .r2 => some .r2
  | .other => none

/-- The register that the field names in mode IDX: R1 or R2 and no other (30_encoding.md R76, 40_addressing_resolver.md R113). -/
def indexReg : RegSel → Option Reg
  | .r1 => some .r1
  | .r2 => some .r2
  | .acc => none
  | .other => none

/-- `reg(r)` (00_scope.md R10). -/
def regRead (r : Reg) (s : State) : Value :=
  match r with
  | .acc => s.acc
  | .r1 => s.r1
  | .r2 => s.r2

/-- `reg(r) <- v` (00_scope.md R10). -/
def regWrite (r : Reg) (v : Value) (s : State) : State :=
  match r with
  | .acc => s.setAcc v
  | .r1 => s.setR1 v
  | .r2 => s.setR2 v

/-! ### Memory -/

/-- What a cell that nothing has written reads as (10_state.md R26, 20_memory.md R57). -/
def unlistedCell : Value := 0

/-- The value a list of cells gives an address. -/
def cellsGet : List Cell → Nat → Value
  | [], _ => unlistedCell
  | c :: rest, a => if c.1 = a then c.2 else cellsGet rest a

/-- The list without any entry for an address. -/
def cellsErase : List Cell → Nat → List Cell
  | [], _ => []
  | c :: rest, a => if c.1 = a then cellsErase rest a else c :: cellsErase rest a

/-- The list with one entry put before the first greater address. -/
def cellsInsert : List Cell → Cell → List Cell
  | [], d => [d]
  | c :: rest, d => if c.1 < d.1 then c :: cellsInsert rest d else d :: c :: rest

/-- The list after a cell is written; the value an unlisted cell reads as is not listed. -/
def cellsPut (l : List Cell) (a : Nat) (v : Value) : List Cell :=
  if v = unlistedCell then cellsErase l a else cellsInsert (cellsErase l a) (a, v)

/-- `MEM[a]`, for a cell of the array. -/
def Memory.get (m : Memory) (a : Nat) : Value :=
  cellsGet m.cells a

/-- `MEM[a] <- v`, for a cell of the array; the size never changes (10_state.md R26). -/
def Memory.put (m : Memory) (a : Nat) (v : Value) : Memory :=
  { m with cells := cellsPut m.cells a v }

/-- `a` is an address of MEM: `0 <= a < MEM_SIZE`, on the exact integer (10_state.md R26, 20_memory.md R54). -/
abbrev Memory.inRange (m : Memory) (a : Int) : Prop :=
  0 ≤ a ∧ a < m.size

/-- A raised error: its kind and its info (00_scope.md R10 `raise E(info)`). -/
structure Raise where
  kind : ErrKind
  info : Option Int
  deriving DecidableEq, Repr

/-- OutOfRangeAddress with the offending integer (60_exceptions.md R205). -/
def outOfRange (a : Int) : Raise :=
  ⟨.outOfRangeAddress, some a⟩

/-- `MemRead(a)` (20_memory.md R54). -/
def memRead (a : Int) (s : State) : Except Raise Value :=
  if s.mem.inRange a then .ok (s.mem.get a.toNat) else .error (outOfRange a)

/-- `MemWrite(a, v)` (20_memory.md R55). -/
def memWrite (a : Int) (v : Value) (s : State) : Except Raise State :=
  if s.mem.inRange a then .ok (s.setMem (s.mem.put a.toNat v)) else .error (outOfRange a)

/-! ### Program counter -/

/-- `pc <- PC + 1`, exact (10_state.md R23, 47_execution_loop.md R167). -/
def State.advance (s : State) : State :=
  s.setPc (s.pc + 1)

/-! ### The fault entry -/

/-- FaultEntry(E, pc0, I, info): STATUS and ERR are written and nothing else changes (60_exceptions.md R212). There is no return
from it (R214). -/
def faultEntry (e : Raise) (pc0 : Nat) (i : Option Decoded) (s : State) : State :=
  (s.setStatus .faulted).setErr (some ⟨e.kind, pc0, i, e.info⟩)

/-- The end of a handler inside a step: the state it leaves, or the fault entry for the error it raised, at the index of the
instruction it was executing (47_execution_loop.md R163 action 3, R166). -/
def endHandler (i : Instr) (s : State) (r : Except Raise State) : Host.Outcome State Fault Refusal :=
  match r with
  | .ok s' => .next s'
  | .error e => .next (faultEntry e s.pc (some (.known i)) s)

/-! ### Numeric codes -/

/-- The numeric form of STATUS (10_state.md R29, 92 D26). -/
def statusCode : Status → Nat
  | .idle => 0
  | .running => 1
  | .halted => 2
  | .faulted => 3

/-- The numbers of the errors, 0 for no error (60_exceptions.md R200, 92 D27). -/
def errCode : Option ErrKind → Nat
  | none => 0
  | some .unknownOpcode => 1
  | some .unsupportedAddressingMode => 2
  | some .invalidDestination => 3
  | some .malformedOperand => 4
  | some .outOfRangeAddress => 5
  | some .emptyProgram => 6
  | some .stepLimitExceeded => 7

end Sys2Proof.Machine
end

