-- ==== Sys2Proof/Machine/Operands.lean ====
section
/-! DEFINITION. OperandCheck (30_encoding.md R77), the Addressing Resolver (40_addressing_resolver.md) and the branch target
(44_control_transfer.md R147). -/

namespace Sys2Proof.Machine

/-- `OperandCheck(I)`: the six tests in their order, the first that fires decides the error (30_encoding.md R77). -/
def operandCheck (o : Operand) : Option ErrKind :=
  if o.mode = .bad then some .malformedOperand
  else if o.mode = .idx ∧ indexReg o.reg = none then some .unsupportedAddressingMode
  else if o.mode = .reg ∧ o.reg = .other then some .malformedOperand
  else if o.mode = .reg ∧ o.n ≠ 0 then some .malformedOperand
  else if o.mode ≠ .idx ∧ o.mode ≠ .reg ∧ o.reg ≠ .acc then some .malformedOperand
  else if o.mode = .none ∧ o.n ≠ 0 then some .malformedOperand
  else none

/-- An error without info (60_exceptions.md R200). -/
def bare (k : ErrKind) : Raise :=
  ⟨k, none⟩

/-- `n + reg(r)`, the exact sum of indexed mode on both paths (40_addressing_resolver.md R105, R109; 20_memory.md R64). -/
def indexedAddr (o : Operand) (s : State) : Except Raise Int :=
  match indexReg o.reg with
  | some r => .ok (o.n + regRead r s)
  | none => .error (bare .unsupportedAddressingMode)

/-- The register of a register-direct operand (40_addressing_resolver.md R106, R110). -/
def directReg (o : Operand) : Except Raise Reg :=
  match namedReg o.reg with
  | some r => .ok r
  | none => .error (bare .malformedOperand)

/-- `p <- MemRead(n); MemRead(p)`, in that order (40_addressing_resolver.md R103, 20_memory.md R64). -/
def indirectRead (n : Int) (s : State) : Except Raise Value :=
  match memRead n s with
  | .ok p => memRead p s
  | .error e => .error e

/-- The read of each mode, after the static checks (40_addressing_resolver.md R101 to R107). -/
def readMode (o : Operand) (s : State) : Except Raise Value :=
  match o.mode with
  | .none => .error (bare .malformedOperand)
  | .imm => .ok o.n
  | .ind => indirectRead o.n s
  | .rel => memRead ((s.pc : Int) + o.n) s
  | .idx => match indexedAddr o s with
    | .ok a => memRead a s
    | .error e => .error e
  | .reg => match directReg o with
    | .ok r => .ok (regRead r s)
    | .error e => .error e
  | .dir => memRead o.n s
  | .bad => .error (bare .malformedOperand)

/-- `ResolveRead(I)` (40_addressing_resolver.md R101, R115). -/
def resolveRead (o : Operand) (s : State) : Except Raise Value :=
  match operandCheck o with
  | some k => .error (bare k)
  | none => readMode o s

/-- The write of each mode, after `OperandCheck` (40_addressing_resolver.md R108 to R112). -/
def writeMode (o : Operand) (v : Value) (s : State) : Except Raise State :=
  match o.mode with
  | .none => .error (bare .malformedOperand)
  | .imm => .error (bare .invalidDestination)
  | .ind => .error (bare .invalidDestination)
  | .rel => .error (bare .invalidDestination)
  | .idx => match indexedAddr o s with
    | .ok a => memWrite a v s
    | .error e => .error e
  | .reg => match directReg o with
    | .ok r => .ok (regWrite r v s)
    | .error e => .error e
  | .dir => memWrite o.n v s
  | .bad => .error (bare .malformedOperand)

/-- `ResolveWrite(I, v)` (40_addressing_resolver.md R108, R115). -/
def resolveWrite (o : Operand) (v : Value) (s : State) : Except Raise State :=
  match operandCheck o with
  | some k => .error (bare k)
  | none => writeMode o v s

/-- `Target(I)`: a bare non-negative integer, taken literally; no machine state is read (44_control_transfer.md R147). -/
def branchTarget (o : Operand) : Except Raise Nat :=
  match operandCheck o with
  | some k => .error (bare k)
  | none =>
    if o.mode ≠ .dir then .error (bare .malformedOperand)
    else if o.n < 0 then .error (outOfRange o.n)
    else .ok o.n.toNat

end Sys2Proof.Machine
end

