-- ==== Sys2Proof/Machine/Arith.lean ====
section
/-! DEFINITION. ADD and SUB, exact integer arithmetic (42_arithmetic.md). -/

namespace Sys2Proof.Machine

/-- The handler of ADD (42_arithmetic.md R130, R132). -/
def addHandler (o : Operand) (s : State) : Except Raise State :=
  match resolveRead o s with
  | .ok v => .ok (s.setAcc (s.acc + v)).advance
  | .error e => .error e

/-- The handler of SUB: accumulator minus operand (42_arithmetic.md R131, R132). -/
def subHandler (o : Operand) (s : State) : Except Raise State :=
  match resolveRead o s with
  | .ok v => .ok (s.setAcc (s.acc - v)).advance
  | .error e => .error e

/-- ADD, with the fault entry for what its handler raises. -/
def execAdd (o : Operand) (s : State) : Host.Outcome State Fault Refusal :=
  endHandler (.add o) s (addHandler o s)

/-- SUB, with the fault entry for what its handler raises. -/
def execSub (o : Operand) (s : State) : Host.Outcome State Fault Refusal :=
  endHandler (.sub o) s (subHandler o s)

end Sys2Proof.Machine
end

