-- ==== Sys2Proof/Machine/Flags.lean ====
section
/-! DEFINITION. The machine has no flags: no carry, zero, sign or overflow flag and no condition-code register (10_state.md R25).
The one condition it tests is JZ's. -/

namespace Sys2Proof.Machine

/-- `ACC = 0`, an exact test of the present value (44_control_transfer.md R146, 42_arithmetic.md R132 (f)). -/
def accIsZero (s : State) : Bool :=
  decide (s.acc = 0)

end Sys2Proof.Machine
end

