-- ==== Sys2Proof/Machine/Control.lean ====
section
/-! DEFINITION. JMP, JZ (44_control_transfer.md) and HALT (45_halt.md). -/

namespace Sys2Proof.Machine

/-- The handler of JMP (44_control_transfer.md R145). -/
def jmpHandler (o : Operand) (s : State) : Except Raise State :=
  match branchTarget o with
  | .ok t => .ok (s.setPc t)
  | .error e => .error e

/-- The handler of JZ: the target is evaluated before the condition (44_control_transfer.md R146, R147 (c)). -/
def jzHandler (o : Operand) (s : State) : Except Raise State :=
  match branchTarget o with
  | .ok t => .ok (if accIsZero s then s.setPc t else s.advance)
  | .error e => .error e

/-- The handler of HALT: the operand fields are not examined, and PC advances (45_halt.md R155). -/
def haltHandler (_o : Operand) (s : State) : Except Raise State :=
  .ok (s.setStatus .halted).advance

/-- JMP, with the fault entry for what its handler raises. -/
def execJmp (o : Operand) (s : State) : Host.Outcome State Fault Refusal :=
  endHandler (.jmp o) s (jmpHandler o s)

/-- JZ, with the fault entry for what its handler raises. -/
def execJz (o : Operand) (s : State) : Host.Outcome State Fault Refusal :=
  endHandler (.jz o) s (jzHandler o s)

/-- HALT, which cannot fault. -/
def execHalt (o : Operand) (s : State) : Host.Outcome State Fault Refusal :=
  endHandler (.halt o) s (haltHandler o s)

end Sys2Proof.Machine
end

