-- ==== Sys2Proof/Machine/Output.lean ====
section
/-! DEFINITION. OUTPUT (43_output.md R140). Its record goes to the output stream, which is no state (10_state.md R32 (a)); the
record is a function of the state before the step (log 11). -/

namespace Sys2Proof.Machine

/-- The output record (43_output.md R140): the operand as the program gave it, or absent; ACC, R1, R2; the resolved value, or
absent (92 D13). -/
structure OutputRecord where
  operand : Option Operand
  acc     : Value
  r1      : Value
  r2      : Value
  val     : Option Value
  deriving DecidableEq, Repr

/-- OUTPUT without an operand: mode NONE and no stray field (43_output.md R140). -/
def isBareOutput (o : Operand) : Bool :=
  decide (o.mode = .none ∧ o.reg = .acc ∧ o.n = 0)

/-- The handler of OUTPUT: the record it emits, and the state it leaves (43_output.md R140). -/
def outputHandler (o : Operand) (s : State) : Except Raise (OutputRecord × State) :=
  if isBareOutput o then .ok (⟨none, s.acc, s.r1, s.r2, none⟩, s.advance)
  else match resolveRead o s with
    | .ok v => .ok (⟨some o, s.acc, s.r1, s.r2, some v⟩, s.advance)
    | .error e => .error e

/-- The record an OUTPUT at this state emits; none when it faults: "a faulting OUTPUT emits nothing" (43_output.md R140). -/
def outputRecord (o : Operand) (s : State) : Option OutputRecord :=
  match outputHandler o s with
  | .ok r => some r.1
  | .error _ => none

/-- OUTPUT's effect on the state, with the fault entry for what its handler raises. -/
def execOutput (o : Operand) (s : State) : Host.Outcome State Fault Refusal :=
  endHandler (.output o) s ((outputHandler o s).map Prod.snd)

end Sys2Proof.Machine
end

