-- ==== Sys2Proof/Machine/Transfer.lean ====
section
/-! DEFINITION. LOAD and STORE (41_load_store.md). -/

namespace Sys2Proof.Machine

/-- The handler of LOAD (41_load_store.md R120). -/
def loadHandler (o : Operand) (s : State) : Except Raise State :=
  match resolveRead o s with
  | .ok v => .ok (s.setAcc v).advance
  | .error e => .error e

/-- The handler of STORE (41_load_store.md R121). -/
def storeHandler (o : Operand) (s : State) : Except Raise State :=
  match resolveWrite o s.acc s with
  | .ok s' => .ok s'.advance
  | .error e => .error e

/-- LOAD, with the fault entry for what its handler raises. -/
def execLoad (o : Operand) (s : State) : Host.Outcome State Fault Refusal :=
  endHandler (.load o) s (loadHandler o s)

/-- STORE, with the fault entry for what its handler raises. -/
def execStore (o : Operand) (s : State) : Host.Outcome State Fault Refusal :=
  endHandler (.store o) s (storeHandler o s)

end Sys2Proof.Machine
end

