-- ==== Sys2Proof/Machine/Dispatch.lean ====
section
/-! DEFINITION. Dispatch on the opcode to the matching handler (47_execution_loop.md R165), one arm per row of the table. -/

namespace Sys2Proof.Machine

def exec (i : Instr) (s : State) : Host.Outcome State Fault Refusal :=
  match i with
  | .load o => Sys2Proof.Machine.execLoad o s
  | .store o => Sys2Proof.Machine.execStore o s
  | .add o => Sys2Proof.Machine.execAdd o s
  | .sub o => Sys2Proof.Machine.execSub o s
  | .output o => Sys2Proof.Machine.execOutput o s
  | .jmp o => Sys2Proof.Machine.execJmp o s
  | .jz o => Sys2Proof.Machine.execJz o s
  | .halt o => Sys2Proof.Machine.execHalt o s

end Sys2Proof.Machine
end

