-- ==== Sys2Proof/Machine/Loop.lean ====
section
/-! DEFINITION. The execution loop: run entry, one pass of the loop, the step with its trace record (47_execution_loop.md). -/

namespace Sys2Proof.Machine

/-- Fetch: `PROG[PC]`, none exactly when `PC >= LEN` (47_execution_loop.md R164, R170). -/
def fetch (s : State) : Option Decoded :=
  s.prog[s.pc]?

/-- Dispatch of what was fetched: UNKNOWN(k) takes UnknownOpcode(k) and its operand fields are never examined
(47_execution_loop.md R163 action 2, R165; 60_exceptions.md R201). -/
def dispatch (d : Decoded) (s : State) : Host.Outcome State Fault Refusal :=
  match d with
  | .known i => exec i s
  | .unknown k o => .next (faultEntry ⟨.unknownOpcode, some k⟩ s.pc (some (.unknown k o)) s)

/-- `STEP <- STEP + 1` for a step that completed; a faulting step does not count (10_state.md R30, 47_execution_loop.md R163, R166). -/
def countStep (s : State) : State :=
  if s.status = .faulted then s else s.setStep (s.step + 1)

/-- One step on the fetched instruction (47_execution_loop.md R163). -/
def stepOn (d : Decoded) (s : State) : Host.Outcome State Fault Refusal :=
  match dispatch d s with
  | .next s' => .next (countStep s')
  | .fault r => .fault r
  | .refused r => .refused r

/-- One pass of the loop under a step ceiling, while STATUS = Running: exhaustion is tested first, the ceiling second, then one
step (47_execution_loop.md R162, R170, R171). In the other statuses the core has no transition (R160; log 8). -/
def loopPass (ceiling : Nat) (s : State) : Host.Outcome State Fault Refusal :=
  match s.status with
  | .running =>
    match fetch s with
    | none => .next (s.setStatus .halted)
    | some d =>
      if s.step = ceiling then .next (faultEntry ⟨.stepLimitExceeded, none⟩ s.pc none s)
      else stepOn d s
  | .idle => .fault .notRunning
  | .halted => .fault .notRunning
  | .faulted => .fault .notRunning

/-- Entering Running: STATUS, PC, STEP and ERR are written and nothing else (47_execution_loop.md R161, 70_reset_and_hazards.md R231). -/
def enterRun (s : State) : State :=
  (((s.setStatus .running).setPc 0).setStep 0).setErr none

/-- The run entry with an empty program (47_execution_loop.md R172): PC and STEP keep their values. -/
def emptyProgramEntry (s : State) : State :=
  faultEntry ⟨.emptyProgram, none⟩ s.pc none s

/-- The trace record of a completed step (47_execution_loop.md R168): the optional memory window is not emitted (92 D36). -/
structure TraceRecord where
  step     : Nat
  pcBefore : Nat
  instr    : Decoded
  acc      : Value
  r1       : Value
  r2       : Value
  deriving DecidableEq, Repr

/-- A record on one of the two streams (48_host_interface.md R186). -/
inductive Record where
  | output (r : OutputRecord)
  | trace (r : TraceRecord)
  deriving DecidableEq, Repr

/-- The trace stream of a run's records, in program order (48_host_interface.md R186). -/
def traceStream : List Record → List TraceRecord
  | [] => []
  | .trace r :: rest => r :: traceStream rest
  | .output _ :: rest => traceStream rest

/-- The output stream of a run's records, in program order (48_host_interface.md R186). -/
def outputStream : List Record → List OutputRecord
  | [] => []
  | .output r :: rest => r :: outputStream rest
  | .trace _ :: rest => outputStream rest

/-- The output records of one step on the fetched instruction: one for a completed OUTPUT, else none. -/
def stepOutput (d : Decoded) (s : State) : List Record :=
  match d with
  | .known (.output o) => (outputRecord o s).toList.map .output
  | _ => []

/-- The trace record of a step from `s` that left `s'` (47_execution_loop.md R163 action 4). -/
def traceRecord (d : Decoded) (s s' : State) : TraceRecord :=
  ⟨s.step, s.pc, d, s'.acc, s'.r1, s'.r2⟩

/-- The records of one step, the output record first; a faulting step emits none (47_execution_loop.md R166, R168;
48_host_interface.md R186). -/
def stepRecords (d : Decoded) (s : State) : List Record :=
  match dispatch d s with
  | .next s' => if s'.status = .faulted then [] else stepOutput d s ++ [.trace (traceRecord d s s')]
  | .fault _ => []
  | .refused _ => []

/-- The records of one pass of the loop: none unless the pass executes a step (47_execution_loop.md R168, R170). -/
def passRecords (ceiling : Nat) (s : State) : List Record :=
  match s.status with
  | .running =>
    match fetch s with
    | none => []
    | some d => if s.step = ceiling then [] else stepRecords d s
  | .idle => []
  | .halted => []
  | .faulted => []

/-- `Loop()` for at most `fuel` passes: the state where it stops and the records in program order (47_execution_loop.md R162).
R176: `MAX_STEPS + 1` passes are enough. -/
def loopFor (ceiling : Nat) : Nat → State → State × List Record
  | 0, s => (s, [])
  | fuel + 1, s =>
    match loopPass ceiling s with
    | .next s' => ((loopFor ceiling fuel s').1, passRecords ceiling s ++ (loopFor ceiling fuel s').2)
    | .fault _ => (s, [])
    | .refused _ => (s, [])

/-- `Run()`: the whole run, from the run entry to Halted or Faulted, with its records (47_execution_loop.md R161, R172, R174). -/
def runProgram (ceiling : Nat) (s : State) : State × List Record :=
  if s.prog = [] then (emptyProgramEntry s, []) else loopFor ceiling (ceiling + 1) (enterRun s)

end Sys2Proof.Machine
end

