-- ==== Sys2Proof/WellFormed.lean ====
section
/-! DEFINITION. Which decoded instructions have a binary word (30_encoding.md R71, R90), and which have a canonical text
(30_encoding.md R77, R88). The machine runs the others too: they fault when executed (30_encoding.md R80). -/

namespace Sys2Proof

/-- `n` lies in the two's complement range of an `immW`-bit payload (30_encoding.md R75, R90). -/
def Operand.fits (immW : Nat) (o : Operand) : Bool :=
  decide (-(2 : Int) ^ (immW - 1) ≤ o.n ∧ o.n < (2 : Int) ^ (immW - 1))

/-- The instruction has a word of `9 + immW` bits (30_encoding.md R72, R90). -/
def Instr.wfAt (immW : Nat) (i : Instr) : Bool :=
  i.operand.fits immW

/-- The instruction has a word of the default size, 32 bits. -/
def Instr.wf (i : Instr) : Bool :=
  i.wfAt Config.immW

/-- The decoded instruction has a word of `9 + immW` bits: its payload fits, and an unknown opcode's number is 8 to 15
(30_encoding.md R71, R73, R90). -/
def Decoded.wfAt (immW : Nat) : Decoded → Bool
  | .known i => i.wfAt immW
  | .unknown k o => decide (8 ≤ k ∧ k ≤ 15) && o.fits immW

/-- The operand fields are those of some token, or of no token: the six conditions of 30_encoding.md R77 read as one
well-formedness test (R88 calls such an instruction well-formed). -/
def Operand.hasText (o : Operand) : Bool :=
  match o.mode with
  | .none => decide (o.reg = .acc ∧ o.n = 0)
  | .imm  => decide (o.reg = .acc)
  | .ind  => decide (o.reg = .acc)
  | .rel  => decide (o.reg = .acc)
  | .idx  => decide (o.reg = .r1 ∨ o.reg = .r2)
  | .reg  => decide (o.reg ≠ .other ∧ o.n = 0)
  | .dir  => decide (o.reg = .acc)
  | .bad  => false

end Sys2Proof
end

