-- ==== Sys2Proof/Decode.lean ====
section
/-! DEFINITION. The binary instruction word of 30_encoding.md R72 to R76: decoder, total on every word (R80), then encoder. -/

namespace Sys2Proof

/-- `w[3:0]` (30_encoding.md R72). -/
def opField {immW : Nat} (w : InstrWord immW) : Nat :=
  (w.extractLsb' 0 4).toNat

/-- `w[6:4]`. -/
def modeField {immW : Nat} (w : InstrWord immW) : Nat :=
  (w.extractLsb' 4 3).toNat

/-- `w[8:7]`. -/
def regField {immW : Nat} (w : InstrWord immW) : Nat :=
  (w.extractLsb' 7 2).toNat

/-- `sext_IMM_W(w[8+IMM_W:9])`: one contiguous two's complement field, never scaled (30_encoding.md R75, 00_scope.md R9). -/
def payloadField {immW : Nat} (w : InstrWord immW) : Int :=
  (w.extractLsb' 9 immW).toInt

/-- ModeOf (30_encoding.md R74). -/
def modeOf : Nat → Mode
  | 0 => .none
  | 1 => .imm
  | 2 => .ind
  | 3 => .rel
  | 4 => .idx
  | 5 => .reg
  | 6 => .dir
  | _ => .bad

/-- The register field's meaning (30_encoding.md R76). -/
def regOf : Nat → RegSel
  | 0 => .acc
  | 1 => .r1
  | 2 => .r2
  | _ => .other

/-- OpOf, put together with the operand fields: 0 to 7 are the eight instructions, the rest UNKNOWN(k) (30_encoding.md R73). -/
def instrOf (op : Nat) (o : Operand) : Decoded :=
  match op with
  | 0 => .known (.load o)
  | 1 => .known (.store o)
  | 2 => .known (.add o)
  | 3 => .known (.sub o)
  | 4 => .known (.output o)
  | 5 => .known (.jmp o)
  | 6 => .known (.jz o)
  | 7 => .known (.halt o)
  | k => .unknown k o

/-- Decode, for every IMM_W: every word has a decoded instruction, and decoding never faults (30_encoding.md R72, R80). -/
def decode (immW : Nat) (w : InstrWord immW) : Decoded :=
  instrOf (opField w) ⟨modeOf (modeField w), regOf (regField w), payloadField w⟩

/-- The decoded instruction of the low 32 of `nbits` bits numbered as a Nat: a carrier's padding above bit 31 is stripped
(30_encoding.md R79 (e)). -/
def decodeStored (nbits w : Nat) : Decoded :=
  decode Config.immW (BitVec.ofNat (9 + Config.immW) (w % 2 ^ nbits))

/-- The instruction of the opcode table that the decoder reads; none for UNKNOWN(k) (op 8 to 15, 30_encoding.md R79 (a)). -/
def decodeTableWord (nbits w : Nat) : Option Instr :=
  match decodeStored nbits w with
  | .known i => some i
  | .unknown _ _ => none

/-- ModeNum (30_encoding.md R74). -/
def modeNum : Mode → Nat
  | .none => 0
  | .imm => 1
  | .ind => 2
  | .rel => 3
  | .idx => 4
  | .reg => 5
  | .dir => 6
  | .bad => 7

/-- The number of the register field (30_encoding.md R76). -/
def regNum : RegSel → Nat
  | .acc => 0
  | .r1 => 1
  | .r2 => 2
  | .other => 3

/-- OpNum of the eight instructions (30_encoding.md R73). -/
def opNum : Instr → Nat
  | .load _ => 0
  | .store _ => 1
  | .add _ => 2
  | .sub _ => 3
  | .output _ => 4
  | .jmp _ => 5
  | .jz _ => 6
  | .halt _ => 7

/-- OpNum (30_encoding.md R73). -/
def decodedOpNum : Decoded → Nat
  | .known i => opNum i
  | .unknown k _ => k

/-- `Encode(I) = OpNum + 16 * ModeNum + 128 * reg + 512 * (n mod 2^IMM_W)` (30_encoding.md R72). -/
def wordValue (immW : Nat) (d : Decoded) : Nat :=
  decodedOpNum d + 16 * modeNum d.operand.mode + 128 * regNum d.operand.reg
    + 512 * (d.operand.n % (2 : Int) ^ immW).toNat

/-- Encode, for every IMM_W: none where the decoded instruction has no word; nothing is truncated (30_encoding.md R72, R90). -/
def encode (immW : Nat) (d : Decoded) : Option (InstrWord immW) :=
  if d.wfAt immW then some (BitVec.ofNat (9 + immW) (wordValue immW d)) else none

/-- Encode at the default IMM_W. -/
def encodeInstr (i : Instr) : Option (InstrWord Config.immW) :=
  encode Config.immW (.known i)

end Sys2Proof
end

