-- ==== Sys2Proof/Machine/Text.lean ====
section
/-! DEFINITION. The text level: tokenizer, assembler and disassembler (30_encoding.md R82 to R88). A text is a list of
characters (log 23). -/

namespace Sys2Proof.Machine

/-- A mnemonic or an operand token. -/
abbrev Text := List Char

/-- A decimal digit, `0` to `9` (30_encoding.md R84). -/
def isDigit (c : Char) : Bool :=
  decide (48 ≤ c.toNat ∧ c.toNat ≤ 57)

/-- One or more decimal digits and nothing else. -/
def isNat (t : Text) : Bool :=
  !t.isEmpty && t.all isDigit

/-- The base 10 value of digits, read on from a value. -/
def natFrom : Nat → Text → Nat
  | acc, [] => acc
  | acc, c :: rest => natFrom (10 * acc + (c.toNat - 48)) rest

/-- The text without one leading `-`, and whether it had one. -/
def splitSign : Text → Bool × Text
  | [] => (false, [])
  | c :: rest => if c = '-' then (true, rest) else (false, c :: rest)

/-- `IsInt(s)` (30_encoding.md R84). -/
def isInt (t : Text) : Bool :=
  isNat (splitSign t).2

/-- `Int(s)` (30_encoding.md R84). -/
def intOf (t : Text) : Int :=
  if (splitSign t).1 then -(natFrom 0 (splitSign t).2 : Int) else (natFrom 0 (splitSign t).2 : Int)

/-- The operand of a token that failed to parse (30_encoding.md R85). -/
def badOperand : Operand :=
  ⟨.bad, .acc, 0⟩

/-- A token with a one-character prefix: the mode if an integer follows, else BAD (30_encoding.md R83). -/
def prefixedOperand (m : Mode) (p : Text) : Operand :=
  if isInt p then ⟨m, .acc, intOf p⟩ else badOperand

/-- The text before the first opening parenthesis. -/
def beforeParen : Text → Text
  | [] => []
  | c :: rest => if c = '(' then [] else c :: beforeParen rest

/-- The text after the first opening parenthesis; none where there is none. -/
def afterParen : Text → Option Text
  | [] => none
  | c :: rest => if c = '(' then some rest else afterParen rest

/-- The register an indexed token names: ACC is number 0, R1 is 1, R2 is 2, anything else is 3 (30_encoding.md R83). -/
def indexName (name : Text) : RegSel :=
  if name = ['R', '1'] then .r1
  else if name = ['R', '2'] then .r2
  else if name = ['A', 'C', 'C'] then .acc
  else .other

/-- An indexed token: the register name is examined before the offset (30_encoding.md R83, 92 D9). -/
def indexedOperand (off name : Text) : Operand :=
  match indexName name with
  | .acc => ⟨.idx, .acc, if isInt off then intOf off else 0⟩
  | .other => ⟨.idx, .other, if isInt off then intOf off else 0⟩
  | .r1 => if isInt off then ⟨.idx, .r1, intOf off⟩ else badOperand
  | .r2 => if isInt off then ⟨.idx, .r2, intOf off⟩ else badOperand

/-- A token that is neither prefixed nor indexed: a register name, a bare integer, or BAD (30_encoding.md R83). -/
def plainOperand (t : Text) : Operand :=
  if t = ['A', 'C', 'C'] then ⟨.reg, .acc, 0⟩
  else if t = ['R', '1'] then ⟨.reg, .r1, 0⟩
  else if t = ['R', '2'] then ⟨.reg, .r2, 0⟩
  else if isInt t then ⟨.dir, .acc, intOf t⟩
  else badOperand

/-- A token without a prefix: indexed when it contains `(` and ends with `)` (30_encoding.md R83). -/
def unprefixedOperand (t : Text) : Operand :=
  match afterParen t with
  | some rest =>
    if rest.getLast? = some ')' then indexedOperand (beforeParen t) rest.dropLast else plainOperand t
  | none => plainOperand t

/-- `Tokenize(t)`, the token absent or present (30_encoding.md R83). -/
def tokenize : Option Text → Operand
  | none => ⟨.none, .acc, 0⟩
  | some [] => badOperand
  | some (c :: p) =>
    if c = '#' then prefixedOperand .imm p
    else if c = '@' then prefixedOperand .ind p
    else if c = '+' then prefixedOperand .rel p
    else unprefixedOperand (c :: p)

/-- The mnemonic of an instruction, spelled exactly (30_encoding.md R82). -/
def mnemonic : Instr → Text
  | .load _ => ['L', 'O', 'A', 'D']
  | .store _ => ['S', 'T', 'O', 'R', 'E']
  | .add _ => ['A', 'D', 'D']
  | .sub _ => ['S', 'U', 'B']
  | .output _ => ['O', 'U', 'T', 'P', 'U', 'T']
  | .jmp _ => ['J', 'M', 'P']
  | .jz _ => ['J', 'Z']
  | .halt _ => ['H', 'A', 'L', 'T']

/-- The instruction that a mnemonic and a tokenized operand stand for; a mnemonic outside the closed set is UNKNOWN(15)
(30_encoding.md R82, 92 D42). -/
def instrOfText (m : Text) (o : Operand) : Decoded :=
  if m = mnemonic (.load o) then .known (.load o)
  else if m = mnemonic (.store o) then .known (.store o)
  else if m = mnemonic (.add o) then .known (.add o)
  else if m = mnemonic (.sub o) then .known (.sub o)
  else if m = mnemonic (.output o) then .known (.output o)
  else if m = mnemonic (.jmp o) then .known (.jmp o)
  else if m = mnemonic (.jz o) then .known (.jz o)
  else if m = mnemonic (.halt o) then .known (.halt o)
  else .unknown 15 o

/-- An instruction at text level, a mnemonic and a token or none, to its decoded form (30_encoding.md R70, R82, R83). -/
def assemble (m : Text) (t : Option Text) : Decoded :=
  instrOfText m (tokenize t)

/-- The character of a decimal digit. -/
def digitChar (d : Nat) : Char :=
  Char.ofNat (48 + d)

/-- Decimal digits of `n` put before a text; `fuel` is any number of digits that is enough. -/
def digitsOnto : Nat → Nat → Text → Text
  | 0, _, t => t
  | fuel + 1, n, t =>
    if n < 10 then digitChar n :: t else digitsOnto fuel (n / 10) (digitChar (n % 10) :: t)

/-- `n` in decimal. -/
def natText (n : Nat) : Text :=
  digitsOnto (n + 1) n []

/-- `n` in decimal with a leading `-` when negative (30_encoding.md R88). -/
def intText (n : Int) : Text :=
  if n < 0 then '-' :: natText n.natAbs else natText n.natAbs

/-- The name of a register field (30_encoding.md R88); the reserved number has none and is never printed. -/
def regText : RegSel → Text
  | .acc => ['A', 'C', 'C']
  | .r1 => ['R', '1']
  | .r2 => ['R', '2']
  | .other => []

/-- The token of well-formed operand fields, absent for mode NONE (30_encoding.md R88). -/
def operandText (o : Operand) : Option Text :=
  match o.mode with
  | .none => none
  | .imm => some ('#' :: intText o.n)
  | .ind => some ('@' :: intText o.n)
  | .rel => some ('+' :: intText o.n)
  | .idx => some (intText o.n ++ '(' :: regText o.reg ++ [')'])
  | .reg => some (regText o.reg)
  | .dir => some (intText o.n)
  | .bad => none

/-- The canonical text of a decoded instruction; an ill-formed or unknown one has none (30_encoding.md R88). -/
def disassemble : Decoded → Option (Text × Option Text)
  | .known i => if i.operand.hasText then some (mnemonic i, operandText i.operand) else none
  | .unknown _ _ => none

end Sys2Proof.Machine
end

