-- ==== Sys2Proof/Machine/HostPort.lean ====
section
/-! DEFINITION. The host interface (48_host_interface.md): construction, load, run, read and write access. Each is one
indivisible transaction between runs. -/

namespace Sys2Proof.Machine

/-- Why a host request is turned away; the machine is unchanged. -/
inductive HostError where
  /-- Invoked while a run is in progress: the spec gives that no meaning (48_host_interface.md R187 (a), 93 U9; log 22). -/
  | runInProgress
  /-- A memory address outside MEM, or a negative PC (48_host_interface.md R185). -/
  | outOfRangeAddress (a : Int)
  deriving DecidableEq, Repr

/-- A request is served only while STATUS is not Running (48_host_interface.md R183, R184, R187). -/
def whenIdle {α : Type} (s : State) (r : Except HostError α) : Except HostError α :=
  if s.status = .running then .error .runInProgress else r

/-- Construction with MEM_SIZE and MAX_STEPS: the ceiling its loop runs under and its state; refused unless both are positive
(48_host_interface.md R180, 92 D40). -/
def construct (memSize maxSteps : Int) : Option (Nat × State) :=
  if 1 ≤ memSize ∧ 1 ≤ maxSteps then some (maxSteps.toNat, State.constructed memSize.toNat) else none

/-- `Load(P)`: PROG, STATUS and ERR are written and nothing else (48_host_interface.md R181). -/
def loadProgram (p : List Decoded) (s : State) : State :=
  ((s.setProg p).setStatus .idle).setErr none

/-- The load entry point; any sequence is accepted (48_host_interface.md R181, 30_encoding.md R80). -/
def hostLoad (p : List Decoded) (s : State) : Except HostError State :=
  whenIdle s (.ok (loadProgram p s))

/-- The load entry point at the binary level: each word is decoded once (48_host_interface.md R181). -/
def hostLoadWords (immW : Nat) (ws : List (InstrWord immW)) (s : State) : Except HostError State :=
  hostLoad (ws.map (decode immW)) s

/-- The program of a text: each instruction's token is tokenized once (30_encoding.md R82, R83). -/
def textProgram (ts : List (Text × Option Text)) : List Decoded :=
  ts.map fun t => assemble t.1 t.2

/-- The load entry point at the text level (48_host_interface.md R181). -/
def hostLoadText (ts : List (Text × Option Text)) (s : State) : Except HostError State :=
  hostLoad (textProgram ts) s

/-- The run entry point of a machine with this step ceiling (48_host_interface.md R182; from Idle, Halted and Faulted alike,
47_execution_loop.md R160). -/
def hostRun (ceiling : Nat) (s : State) : Except HostError (State × List Record) :=
  whenIdle s (.ok (runProgram ceiling s))

/-- What the run entry point reports when a run has ended (48_host_interface.md R182). -/
structure RunResult where
  status : Status
  acc    : Value
  r1     : Value
  r2     : Value
  pc     : Nat
  err    : Option ErrReport
  step   : Nat
  deriving DecidableEq, Repr

/-- The result a final state gives. -/
def runResult (s : State) : RunResult :=
  ⟨s.status, s.acc, s.r1, s.r2, s.pc, s.err, s.step⟩

/-- At the text level a report names the instruction as text: the pair at the report's index of the program that was loaded, absent
where the report has no instruction (60_exceptions.md R211). Text is not state (10_state.md R32 (c)), so it is the host's (log 23). -/
def reportText (ts : List (Text × Option Text)) (r : ErrReport) : Option (Text × Option Text) :=
  match r.instr with
  | some _ => ts[r.pc]?
  | none => none

/-- The offending mnemonic of an UnknownOpcode report at the text level (60_exceptions.md R201, 47_execution_loop.md R165). -/
def offendingMnemonic (ts : List (Text × Option Text)) (r : ErrReport) : Option Text :=
  if r.kind = .unknownOpcode then (reportText ts r).map Prod.fst else none

/-- The operand token of the instruction at an index of a text; absent where the instruction has none (30_encoding.md R70). -/
def tokenAt (ts : List (Text × Option Text)) (pc : Nat) : Option Text :=
  ts[pc]?.bind Prod.snd

/-- The output record at the text level: the operand is the token string as the program gave it, or absent (43_output.md R140). -/
structure TextOutputRecord where
  operand : Option Text
  acc     : Value
  r1      : Value
  r2      : Value
  val     : Option Value
  deriving DecidableEq, Repr

/-- An output record with the token string for its operand (43_output.md R140). -/
def withToken (token : Option Text) (r : OutputRecord) : TextOutputRecord :=
  ⟨token, r.acc, r.r1, r.r2, r.val⟩

/-- The index of the step whose trace record comes next. The two records of an OUTPUT step stand together, the output record
first, so after an output record this is the index of its OUTPUT (47_execution_loop.md R168, 48_host_interface.md R186). -/
def nextTraceIndex : List Record → Option Nat
  | [] => none
  | .trace t :: _ => some t.pcBefore
  | .output _ :: _ => none

/-- The output stream at the text level, in program order: each record names its operand by the token of its OUTPUT in the loaded
text (43_output.md R140). Text is not state (10_state.md R32 (c)), so the text is the host's (log 23). -/
def textOutputStream (ts : List (Text × Option Text)) : List Record → List TextOutputRecord
  | [] => []
  | .trace _ :: rest => textOutputStream ts rest
  | .output r :: rest => withToken ((nextTraceIndex rest).bind (tokenAt ts)) r :: textOutputStream ts rest

/-- What the host reads of the machine besides memory: the items of a run result and LEN (48_host_interface.md R183). -/
def hostRead (s : State) : Except HostError (RunResult × Nat) :=
  whenIdle s (.ok (runResult s, s.prog.length))

/-- Host read of `MEM[a]` (48_host_interface.md R183, R185). -/
def hostReadMem (a : Int) (s : State) : Except HostError Value :=
  whenIdle s (if s.mem.inRange a then .ok (s.mem.get a.toNat) else .error (.outOfRangeAddress a))

/-- Host write of ACC, R1 or R2 (48_host_interface.md R184). -/
def hostWriteReg (r : Reg) (v : Value) (s : State) : Except HostError State :=
  whenIdle s (.ok (regWrite r v s))

/-- Host write of PC, refused when negative (48_host_interface.md R184, R185). -/
def hostWritePc (t : Int) (s : State) : Except HostError State :=
  whenIdle s (if 0 ≤ t then .ok (s.setPc t.toNat) else .error (.outOfRangeAddress t))

/-- Host write of `MEM[a]` (48_host_interface.md R184, R185). -/
def hostWriteMem (a : Int) (v : Value) (s : State) : Except HostError State :=
  whenIdle s (if s.mem.inRange a then .ok (s.setMem (s.mem.put a.toNat v)) else .error (.outOfRangeAddress a))

end Sys2Proof.Machine
end

