-- ==== Sys2Proof/Machine/Step.lean ====
section
/-! DEFINITION. The step of the machine with ceiling MAX_STEPS: one pass of the execution loop. -/

namespace Sys2Proof.Machine

/-- One pass of the loop (47_execution_loop.md R162, R163). -/
def step (s : State) : Host.Outcome State Fault Refusal :=
  loopPass Config.maxSteps s

/-- The machine after the host loads the one-instruction program of a word and the run entry is taken
(48_host_interface.md R181, 47_execution_loop.md R161): the next step fetches that instruction at index 0 (log 10). -/
def State.withFetchWord (s : State) (nbits w : Nat) : State :=
  enterRun (loadProgram [decodeStored nbits w] s)

end Sys2Proof.Machine
end

