-- ==== Sys2Proof/Safety.lean ====
section
/-! DEFINITION. The terms statements use: the state invariant, and, as relations read off the resolver's table
(40_addressing_resolver.md), what an operand denotes and which error it raises. The relations name no resolver function. -/

namespace Sys2Proof.Machine

/-- The invariant of a machine whose step ceiling is `ceiling`: MEM is canonical (10_state.md R33 (c)), ERR is not none exactly
when STATUS = Faulted (R31), and STEP has not passed the ceiling (47_execution_loop.md R176). -/
abbrev State.InvUnder (ceiling : Nat) (s : State) : Prop :=
  s.mem.wf ∧ (s.err.isSome = true ↔ s.status = .faulted) ∧ s.step ≤ ceiling

/-- The invariant of the machine that `step` runs. -/
abbrev State.Inv (s : State) : Prop :=
  s.InvUnder Config.maxSteps

/-- A run has ended (47_execution_loop.md R173). -/
abbrev State.ended (s : State) : Prop :=
  s.status = .halted ∨ s.status = .faulted

/-- The output record that a record of the text level stands for: its token, where it has one, tokenized. -/
def TextOutputRecord.decoded (r : TextOutputRecord) : OutputRecord :=
  ⟨r.operand.map fun t => tokenize (some t), r.acc, r.r1, r.r2, r.val⟩

/-- The state after the instruction `i` faulted at `s` with the error `e` (60_exceptions.md R212). -/
def State.faultedAt (s : State) (i : Instr) (e : Raise) : State :=
  { s with status := .faulted, err := some ⟨e.kind, s.pc, some (.known i), e.info⟩ }

/-- The value an operand denotes on the read path, mode by mode (40_addressing_resolver.md, the table, column "Read semantics"). -/
inductive Denotes (s : State) : Operand → Value → Prop where
  | imm (n : Int) : Denotes s ⟨.imm, .acc, n⟩ n
  | ind (n : Int) : s.mem.inRange n → s.mem.inRange (s.mem.get n.toNat) →
      Denotes s ⟨.ind, .acc, n⟩ (s.mem.get (s.mem.get n.toNat).toNat)
  | rel (n : Int) : s.mem.inRange (s.pc + n) → Denotes s ⟨.rel, .acc, n⟩ (s.mem.get (s.pc + n).toNat)
  | idxR1 (n : Int) : s.mem.inRange (n + s.r1) → Denotes s ⟨.idx, .r1, n⟩ (s.mem.get (n + s.r1).toNat)
  | idxR2 (n : Int) : s.mem.inRange (n + s.r2) → Denotes s ⟨.idx, .r2, n⟩ (s.mem.get (n + s.r2).toNat)
  | regAcc : Denotes s ⟨.reg, .acc, 0⟩ s.acc
  | regR1 : Denotes s ⟨.reg, .r1, 0⟩ s.r1
  | regR2 : Denotes s ⟨.reg, .r2, 0⟩ s.r2
  | dir (n : Int) : s.mem.inRange n → Denotes s ⟨.dir, .acc, n⟩ (s.mem.get n.toNat)

/-- The memory address an operand names as a destination (40_addressing_resolver.md R109, R111). -/
inductive DestCell (s : State) : Operand → Int → Prop where
  | idxR1 (n : Int) : DestCell s ⟨.idx, .r1, n⟩ (n + s.r1)
  | idxR2 (n : Int) : DestCell s ⟨.idx, .r2, n⟩ (n + s.r2)
  | dir (n : Int) : DestCell s ⟨.dir, .acc, n⟩ n

/-- The register an operand names as a destination (40_addressing_resolver.md R110). -/
inductive DestReg : Operand → Reg → Prop where
  | acc : DestReg ⟨.reg, .acc, 0⟩ .acc
  | r1 : DestReg ⟨.reg, .r1, 0⟩ .r1
  | r2 : DestReg ⟨.reg, .r2, 0⟩ .r2

/-- The operand fields are rejected whatever the state (30_encoding.md R77, one case for each of its six tests). -/
inductive StaticError : Operand → ErrKind → Prop where
  | badToken (r : RegSel) (n : Int) : StaticError ⟨.bad, r, n⟩ .malformedOperand
  | badIndex (r : RegSel) (n : Int) : r = .acc ∨ r = .other → StaticError ⟨.idx, r, n⟩ .unsupportedAddressingMode
  | badRegister (n : Int) : StaticError ⟨.reg, .other, n⟩ .malformedOperand
  | strayPayload (r : RegSel) (n : Int) : n ≠ 0 → StaticError ⟨.reg, r, n⟩ .malformedOperand
  | strayRegister (m : Mode) (r : RegSel) (n : Int) : m ≠ .idx → m ≠ .reg → r ≠ .acc → StaticError ⟨m, r, n⟩ .malformedOperand
  | strayNoOperand (r : RegSel) (n : Int) : n ≠ 0 → StaticError ⟨.none, r, n⟩ .malformedOperand

/-- The error an operand raises on the read path (40_addressing_resolver.md R103 to R107, R115). -/
inductive ReadFault (s : State) : Operand → Raise → Prop where
  | static (o : Operand) (k : ErrKind) : StaticError o k → ReadFault s o ⟨k, none⟩
  | absent : ReadFault s ⟨.none, .acc, 0⟩ ⟨.malformedOperand, none⟩
  | indFirst (n : Int) : ¬ s.mem.inRange n → ReadFault s ⟨.ind, .acc, n⟩ ⟨.outOfRangeAddress, some n⟩
  | indSecond (n : Int) : s.mem.inRange n → ¬ s.mem.inRange (s.mem.get n.toNat) →
      ReadFault s ⟨.ind, .acc, n⟩ ⟨.outOfRangeAddress, some (s.mem.get n.toNat)⟩
  | rel (n : Int) : ¬ s.mem.inRange (s.pc + n) → ReadFault s ⟨.rel, .acc, n⟩ ⟨.outOfRangeAddress, some (s.pc + n)⟩
  | idxR1 (n : Int) : ¬ s.mem.inRange (n + s.r1) → ReadFault s ⟨.idx, .r1, n⟩ ⟨.outOfRangeAddress, some (n + s.r1)⟩
  | idxR2 (n : Int) : ¬ s.mem.inRange (n + s.r2) → ReadFault s ⟨.idx, .r2, n⟩ ⟨.outOfRangeAddress, some (n + s.r2)⟩
  | dir (n : Int) : ¬ s.mem.inRange n → ReadFault s ⟨.dir, .acc, n⟩ ⟨.outOfRangeAddress, some n⟩

/-- The error an operand raises on the write path (40_addressing_resolver.md R109, R111, R112, R115). -/
inductive WriteFault (s : State) : Operand → Raise → Prop where
  | static (o : Operand) (k : ErrKind) : StaticError o k → WriteFault s o ⟨k, none⟩
  | absent : WriteFault s ⟨.none, .acc, 0⟩ ⟨.malformedOperand, none⟩
  | readOnly (m : Mode) (n : Int) : m = .imm ∨ m = .ind ∨ m = .rel → WriteFault s ⟨m, .acc, n⟩ ⟨.invalidDestination, none⟩
  | cell (o : Operand) (a : Int) : DestCell s o a → ¬ s.mem.inRange a → WriteFault s o ⟨.outOfRangeAddress, some a⟩

/-- The error an operand raises as a branch target (44_control_transfer.md R147). -/
inductive TargetFault : Operand → Raise → Prop where
  | static (o : Operand) (k : ErrKind) : StaticError o k → TargetFault o ⟨k, none⟩
  | notBare (o : Operand) : o.hasText = true → o.mode ≠ .dir → TargetFault o ⟨.malformedOperand, none⟩
  | negative (n : Int) : n < 0 → TargetFault ⟨.dir, .acc, n⟩ ⟨.outOfRangeAddress, some n⟩

end Sys2Proof.Machine
end

