-- ==== Sys2Proof/Certificates/Slice0/Obligations.lean ====
section
/-! DEFINITION. The statements for the provers. "D<n>" names a decision of 92_eei_decisions.md, "log <n>" a row of
notes/assumptions: a statement that rests on one says so. -/

open Sys2Proof Sys2Proof.Machine

/-! ### Binary encoding (30_encoding.md section 3, the spec's decisions D2, D4 to D6) -/

/-- Every decoded instruction that has a word is decoded back from it, at every IMM_W (D2, D4 to D6). -/
def Obligations.DecodeOfEncodeGivesBack : Prop :=
  ∀ (immW : Nat) (d : Decoded), 0 < immW → d.wfAt immW = true →
    ∃ w, encode immW d = some w ∧ decode immW w = d

/-- Every word, legal or not, is the encoding of what it decodes to: no bit is dropped, no two words mean the same (D2). -/
def Obligations.EncodeOfDecodeGivesBack : Prop :=
  ∀ (immW : Nat) (w : InstrWord immW), 0 < immW →
    (decode immW w).wfAt immW = true ∧ encode immW (decode immW w) = some w

/-- A payload outside the IMM_W-bit range has no word; it is not truncated (R90, D2). -/
def Obligations.PayloadOutOfRangeHasNoWord : Prop :=
  ∀ (immW : Nat) (d : Decoded),
    (d.operand.n < -(2 : Int) ^ (immW - 1) ∨ (2 : Int) ^ (immW - 1) ≤ d.operand.n) → encode immW d = none

/-- The low four bits select the instruction by its number, 0 to 7, and 8 to 15 are UNKNOWN of that number (R73, D4). -/
def Obligations.LowBitsSelectInstruction : Prop :=
  ∀ (immW : Nat) (w : InstrWord immW),
    (w.toNat % 16 < 8 → ∃ i, decode immW w = .known i ∧ opNum i = w.toNat % 16) ∧
    (8 ≤ w.toNat % 16 → ∃ o, decode immW w = .unknown (w.toNat % 16) o)

/-- One written word for each row of the opcode table decodes to what 95_test_vectors.md gives; that `decodeTableWord` answers none
for a word of UNKNOWN(15), which is no row of the table, is the model's choice (log 25). -/
def Obligations.WrittenWordsDecode : Prop :=
  decodeTableWord 32 0x00000A10 = some (.load ⟨.imm, .acc, 5⟩) ∧
  decodeTableWord 32 0x00003D41 = some (.store ⟨.idx, .r2, 30⟩) ∧
  decodeTableWord 32 0x00000C32 = some (.add ⟨.rel, .acc, 6⟩) ∧
  decodeTableWord 32 0xFFFFFC13 = some (.sub ⟨.imm, .acc, -2⟩) ∧
  decodeTableWord 32 0x00002864 = some (.output ⟨.dir, .acc, 20⟩) ∧
  decodeTableWord 32 0x00000E65 = some (.jmp ⟨.dir, .acc, 7⟩) ∧
  decodeTableWord 32 0x00000866 = some (.jz ⟨.dir, .acc, 4⟩) ∧
  decodeTableWord 32 0xFFFFFFF7 = some (.halt ⟨.bad, .other, -1⟩) ∧
  decodeTableWord 32 0x0000041F = none

/-! ### Text level (30_encoding.md section 5) -/

/-- The canonical text of every well-formed instruction assembles back to it (R88, which the spec marks as derived). -/
def Obligations.CanonicalTextRoundTrip : Prop :=
  ∀ i : Instr, i.operand.hasText = true →
    ∃ m t, disassemble (.known i) = some (m, t) ∧ assemble m t = .known i

/-- No token gives a stray field: it is BAD, or well-formed, or an indexed operand of an unsupported register (R77, R83). -/
def Obligations.TokenizerEmitsNoStrayField : Prop :=
  ∀ t : Option Text, tokenize t = ⟨.bad, .acc, 0⟩ ∨ (tokenize t).hasText = true ∨
    ((tokenize t).mode = .idx ∧ ((tokenize t).reg = .acc ∨ (tokenize t).reg = .other))

/-- A mnemonic of the closed set gives its instruction; every other one gives UNKNOWN(15) (R82, D42). -/
def Obligations.MnemonicsAreAClosedSet : Prop :=
  ∀ (m : Text) (t : Option Text),
    (∀ i : Instr, i.operand = tokenize t → m = mnemonic i → assemble m t = .known i) ∧
    ((∀ i : Instr, m ≠ mnemonic i) → assemble m t = .unknown 15 (tokenize t))

/-! ### Construction and reset -/

/-- Construction needs two positive parameters (D40) and then gives the values of 10_state.md R35: memory zero and status Idle
are the source's; ACC, R1, R2, PC = 0 are the spec's decision D19 (log 1), PROG, STEP, ERR its decision D20 (log 2). -/
def Obligations.ConstructionValues : Prop :=
  ∀ m c : Int,
    ((1 ≤ m ∧ 1 ≤ c) → ∃ s, construct m c = some (c.toNat, s) ∧ (s.mem.size : Int) = m ∧
      (∀ a, 0 ≤ a → a < m → memRead a s = .ok 0) ∧ s.status = .idle ∧
      s.acc = 0 ∧ s.r1 = 0 ∧ s.r2 = 0 ∧ s.pc = 0 ∧ s.prog = [] ∧ s.step = 0 ∧ s.err = none) ∧
    (¬ (1 ≤ m ∧ 1 ≤ c) → construct m c = none)

/-- The machine after reset has 100 cells, all 0, and is Idle (R26, R29, R35; the register values are not part of this). -/
def Obligations.ResetMemoryIsZeroAndIdle : Prop :=
  State.reset.status = .idle ∧ State.reset.mem.size = 100 ∧
    ∀ a : Int, 0 ≤ a → a < 100 → memRead a State.reset = .ok 0

/-- The reset state satisfies the invariant. -/
def Obligations.ResetSatisfiesInv : Prop :=
  State.reset.Inv

/-- Every step keeps the invariant: canonical memory (R33 (c)), ERR present exactly when Faulted (R31), STEP within the ceiling (R171). -/
def Obligations.StepKeepsInv : Prop :=
  ∀ s t : State, s.Inv → step s = .next t → t.Inv

/-- Every host transaction keeps the invariant, under every ceiling (R180 to R185; D31, D32). -/
def Obligations.HostTransactionsKeepInv : Prop :=
  ∀ (c : Nat) (s t : State), s.InvUnder c →
    ((∃ p, hostLoad p s = .ok t) ∨ (∃ rs, hostRun c s = .ok (t, rs)) ∨ (∃ r v, hostWriteReg r v s = .ok t) ∨
      (∃ n, hostWritePc n s = .ok t) ∨ (∃ a v, hostWriteMem a v s = .ok t)) →
    t.InvUnder c

/-! ### Memory access -/

/-- MemRead (R54): an address below 0 or not below MEM_SIZE raises OutOfRangeAddress of it; any other reads its cell, and
nothing is wrapped or clamped. -/
def Obligations.MemReadIsRangeChecked : Prop :=
  ∀ (a : Int) (s : State),
    ((a < 0 ∨ (s.mem.size : Int) ≤ a) → memRead a s = .error ⟨.outOfRangeAddress, some a⟩) ∧
    ((0 ≤ a ∧ a < s.mem.size) → memRead a s = .ok (s.mem.get a.toNat))

/-- MemWrite (R55): out of range it raises; in range that one cell reads as written, for any integer, every other reads as
before, and nothing but memory changes. -/
def Obligations.MemWriteChangesOneCell : Prop :=
  ∀ (a : Int) (v : Value) (s : State),
    ((a < 0 ∨ (s.mem.size : Int) ≤ a) → memWrite a v s = .error ⟨.outOfRangeAddress, some a⟩) ∧
    ((0 ≤ a ∧ a < s.mem.size) → ∃ t, memWrite a v s = .ok t ∧ memRead a t = .ok v ∧
      (∀ b, b ≠ a → memRead b t = memRead b s) ∧ t = { s with mem := t.mem })

/-! ### The resolver -/

/-- OperandCheck raises exactly the error of its six tests, and passes exactly the well-formed fields (R77; tests 3 to 6 are D7). -/
def Obligations.OperandCheckDecidesStaticErrors : Prop :=
  ∀ o : Operand, (∀ k, operandCheck o = some k ↔ StaticError o k) ∧ (operandCheck o = none ↔ o.hasText = true)

/-- Immediate read (R102). -/
def Obligations.ImmediateReadIsTheLiteral : Prop :=
  ∀ (n : Int) (s : State), resolveRead ⟨.imm, .acc, n⟩ s = .ok n

/-- Indirect read (R103): both reads are range checked, the first at `n`, the second at the pointer (the
order and the address reported are the spec's decision D37). -/
def Obligations.IndirectReadFollowsThePointer : Prop :=
  ∀ (n : Int) (s : State),
    (¬ s.mem.inRange n → resolveRead ⟨.ind, .acc, n⟩ s = .error ⟨.outOfRangeAddress, some n⟩) ∧
    (∀ p, memRead n s = .ok p → resolveRead ⟨.ind, .acc, n⟩ s = memRead p s) ∧
    (∀ p, memRead n s = .ok p → ¬ s.mem.inRange p →
      resolveRead ⟨.ind, .acc, n⟩ s = .error ⟨.outOfRangeAddress, some p⟩)

/-- Relative read (R104): the executing instruction's own index plus `n`, in data memory. -/
def Obligations.RelativeReadUsesTheOwnIndex : Prop :=
  ∀ (n : Int) (s : State),
    (s.mem.inRange (s.pc + n) → resolveRead ⟨.rel, .acc, n⟩ s = .ok (s.mem.get (s.pc + n).toNat)) ∧
    (¬ s.mem.inRange (s.pc + n) → resolveRead ⟨.rel, .acc, n⟩ s = .error ⟨.outOfRangeAddress, some (s.pc + n)⟩)

/-- Indexed read (R105): the exact sum with R1 or R2, range checked once; another register is unsupported, before any access. -/
def Obligations.IndexedReadAddsTheRegister : Prop :=
  ∀ (n : Int) (s : State),
    (resolveRead ⟨.idx, .r1, n⟩ s = memRead (n + s.r1) s) ∧
    (resolveRead ⟨.idx, .r2, n⟩ s = memRead (n + s.r2) s) ∧
    (¬ s.mem.inRange (n + s.r1) → resolveRead ⟨.idx, .r1, n⟩ s = .error ⟨.outOfRangeAddress, some (n + s.r1)⟩) ∧
    (¬ s.mem.inRange (n + s.r2) → resolveRead ⟨.idx, .r2, n⟩ s = .error ⟨.outOfRangeAddress, some (n + s.r2)⟩) ∧
    (∀ r, r = .acc ∨ r = .other → resolveRead ⟨.idx, r, n⟩ s = .error ⟨.unsupportedAddressingMode, none⟩)

/-- Register-direct read (R106): the register's value, never an error; PC cannot be named; ADD ACC doubles and SUB ACC clears. -/
def Obligations.RegisterDirectReadIsTheRegister : Prop :=
  (∀ s : State, resolveRead ⟨.reg, .acc, 0⟩ s = .ok s.acc ∧ resolveRead ⟨.reg, .r1, 0⟩ s = .ok s.r1 ∧
    resolveRead ⟨.reg, .r2, 0⟩ s = .ok s.r2 ∧
    exec (.add ⟨.reg, .acc, 0⟩) s = .next { s with acc := 2 * s.acc, pc := s.pc + 1 } ∧
    exec (.sub ⟨.reg, .acc, 0⟩) s = .next { s with acc := 0, pc := s.pc + 1 }) ∧
  tokenize (some ['P', 'C']) = ⟨.bad, .acc, 0⟩

/-- Direct read (R107): the cell at `n`, or OutOfRangeAddress(n), which includes every negative `n`. -/
def Obligations.DirectReadIsTheCell : Prop :=
  ∀ (n : Int) (s : State),
    (s.mem.inRange n → resolveRead ⟨.dir, .acc, n⟩ s = .ok (s.mem.get n.toNat)) ∧
    (¬ s.mem.inRange n → resolveRead ⟨.dir, .acc, n⟩ s = .error ⟨.outOfRangeAddress, some n⟩)

/-- The read path gives exactly the table's values and exactly its errors, for all operand fields and states (R101, R115; the
order of checks is D30, a missing operand D10, stray fields D7). -/
def Obligations.ReadPathMatchesTheTable : Prop :=
  ∀ (o : Operand) (s : State),
    (∀ v, resolveRead o s = .ok v ↔ Denotes s o v) ∧ (∀ e, resolveRead o s = .error e ↔ ReadFault s o e)

/-- The write path writes exactly the table's destination and raises exactly its errors (R108 to R112, R115; an indexed
destination is legal by D18, log 13; the read-only modes fault by D17). -/
def Obligations.WritePathMatchesTheTable : Prop :=
  ∀ (o : Operand) (v : Value) (s : State),
    (∀ t, resolveWrite o v s = .ok t ↔
      (∃ r, DestReg o r ∧ t = regWrite r v s) ∨
      (∃ a, DestCell s o a ∧ s.mem.inRange a ∧ t = { s with mem := s.mem.put a.toNat v })) ∧
    (∀ e, resolveWrite o v s = .error e ↔ WriteFault s o e)

/-- Register-direct write (R110): the named register receives `v`; STORE ACC changes only PC; no other instruction changes R1
or R2. -/
def Obligations.RegisterDirectWriteIsTheOnlyWayToR1R2 : Prop :=
  (∀ (v : Value) (s : State),
    resolveWrite ⟨.reg, .acc, 0⟩ v s = .ok { s with acc := v } ∧
    resolveWrite ⟨.reg, .r1, 0⟩ v s = .ok { s with r1 := v } ∧
    resolveWrite ⟨.reg, .r2, 0⟩ v s = .ok { s with r2 := v } ∧
    exec (.store ⟨.reg, .acc, 0⟩) s = .next { s with pc := s.pc + 1 }) ∧
  (∀ (i : Instr) (s t : State), exec i s = .next t →
    (t.r1 ≠ s.r1 → i = .store ⟨.reg, .r1, 0⟩) ∧ (t.r2 ≠ s.r2 → i = .store ⟨.reg, .r2, 0⟩))

/-- Direct write (R111): the cell at `n` alone; out of range it raises OutOfRangeAddress(n) and no cell changes. -/
def Obligations.DirectWriteIsTheCell : Prop :=
  ∀ (n : Int) (v : Value) (s : State),
    (s.mem.inRange n → ∃ t, resolveWrite ⟨.dir, .acc, n⟩ v s = .ok t ∧ memRead n t = .ok v ∧
      (∀ b, b ≠ n → memRead b t = memRead b s) ∧ t = { s with mem := t.mem }) ∧
    (¬ s.mem.inRange n → resolveWrite ⟨.dir, .acc, n⟩ v s = .error ⟨.outOfRangeAddress, some n⟩ ∧
      ∃ t, exec (.store ⟨.dir, .acc, n⟩) s = .next t ∧ t.mem = s.mem)

/-- UnsupportedAddressingMode: raised on both paths (R113), and for a branch operand (R145, R147, whose operand check comes before
the mode test by the spec's decisions D14 and D30, log 16, log 17), exactly when an indexed operand names a register other than R1
and R2, whatever `n` and the state are. -/
def Obligations.UnsupportedModeExactlyForOtherIndexRegisters : Prop :=
  ∀ (o : Operand) (v : Value) (s : State),
    ((∃ x, resolveRead o s = .error ⟨.unsupportedAddressingMode, x⟩) ↔ o.mode = .idx ∧ (o.reg = .acc ∨ o.reg = .other)) ∧
    ((∃ x, resolveWrite o v s = .error ⟨.unsupportedAddressingMode, x⟩) ↔ o.mode = .idx ∧ (o.reg = .acc ∨ o.reg = .other)) ∧
    ((∃ x, branchTarget o = .error ⟨.unsupportedAddressingMode, x⟩) ↔ o.mode = .idx ∧ (o.reg = .acc ∨ o.reg = .other))

/-! ### The instructions -/

/-- LOAD (R120): where its operand denotes a value, ACC takes it, PC advances and nothing else changes; where the operand
raises an error, the fault entry is all that happens (stray and missing operands fault by D7, D10). -/
def Obligations.LoadResult : Prop :=
  ∀ (o : Operand) (s : State),
    (∀ v, Denotes s o v → exec (.load o) s = .next { s with acc := v, pc := s.pc + 1 }) ∧
    (∀ e, ReadFault s o e → exec (.load o) s = .next (s.faultedAt (.load o) e))

/-- STORE (R121): to a register, or to one cell (indexed by D18, log 13); where the operand raises an error, the fault entry
alone. -/
def Obligations.StoreResult : Prop :=
  ∀ (o : Operand) (s : State),
    (∀ r, DestReg o r → exec (.store o) s = .next { regWrite r s.acc s with pc := s.pc + 1 }) ∧
    (∀ a, DestCell s o a → s.mem.inRange a →
      exec (.store o) s = .next { s with mem := s.mem.put a.toNat s.acc, pc := s.pc + 1 }) ∧
    (∀ e, WriteFault s o e → exec (.store o) s = .next (s.faultedAt (.store o) e))

/-- STORE's frame on memory: the cell of the computed address reads as ACC, every other address reads as before; a form with no
memory destination, and a faulting form, leave every address as before (R108, R121; indexed by D18). -/
def Obligations.StoreMemoryFrame : Prop :=
  ∀ (o : Operand) (s t : State), exec (.store o) s = .next t →
    (∀ a, DestCell s o a → (s.mem.inRange a → memRead a t = .ok s.acc) ∧ ∀ b, b ≠ a → memRead b t = memRead b s) ∧
    ((¬ ∃ a, DestCell s o a ∧ s.mem.inRange a) → ∀ b, memRead b t = memRead b s)

/-- ADD and SUB (R130 to R132): the exact sum, and accumulator minus operand; where the operand raises an error, the fault entry
alone (stray and missing operands fault by D7, D10). -/
def Obligations.AddSubResult : Prop :=
  ∀ (o : Operand) (s : State),
    (∀ v, Denotes s o v →
      exec (.add o) s = .next { s with acc := s.acc + v, pc := s.pc + 1 } ∧
      exec (.sub o) s = .next { s with acc := s.acc - v, pc := s.pc + 1 }) ∧
    (∀ e, ReadFault s o e →
      exec (.add o) s = .next (s.faultedAt (.add o) e) ∧ exec (.sub o) s = .next (s.faultedAt (.sub o) e))

/-- Adding a value and then subtracting the same value restores ACC, by whatever operands they come (R132 (d)). -/
def Obligations.AddThenSubRestoresAcc : Prop :=
  ∀ (o o' : Operand) (v : Value) (s t : State), Denotes s o v → exec (.add o) s = .next t → Denotes t o' v →
    exec (.sub o') t = .next { s with pc := s.pc + 2 }

/-- OUTPUT (R140): it changes only PC and emits its record; without an operand nothing is resolved (D12, log 14) and the record's
fields are those of D13; where the operand raises an error it faults and emits nothing. -/
def Obligations.OutputResult : Prop :=
  ∀ (o : Operand) (s : State),
    (o = ⟨.none, .acc, 0⟩ → exec (.output o) s = .next { s with pc := s.pc + 1 } ∧
      outputRecord o s = some ⟨none, s.acc, s.r1, s.r2, none⟩) ∧
    (∀ v, Denotes s o v → exec (.output o) s = .next { s with pc := s.pc + 1 } ∧
      outputRecord o s = some ⟨some o, s.acc, s.r1, s.r2, some v⟩) ∧
    (∀ e, o ≠ ⟨.none, .acc, 0⟩ → ReadFault s o e →
      exec (.output o) s = .next (s.faultedAt (.output o) e) ∧ outputRecord o s = none)

/-- JMP (R145, R147): PC takes the literal index, whatever ACC and the length of the program are; any other operand faults
(D14, D15, log 16). -/
def Obligations.JmpResult : Prop :=
  ∀ s : State,
    (∀ t : Nat, exec (.jmp ⟨.dir, .acc, t⟩) s = .next { s with pc := t }) ∧
    (∀ o e, TargetFault o e → exec (.jmp o) s = .next (s.faultedAt (.jmp o) e))

/-- JZ (R146, R147): PC takes the index when ACC = 0 and advances otherwise; any other operand faults whatever ACC is (D14, D15,
log 16). -/
def Obligations.JzResult : Prop :=
  ∀ s : State,
    (∀ t : Nat, exec (.jz ⟨.dir, .acc, t⟩) s = .next { s with pc := if s.acc = 0 then t else s.pc + 1 }) ∧
    (∀ o e, TargetFault o e → exec (.jz o) s = .next (s.faultedAt (.jz o) e))

/-- HALT (R155): STATUS becomes Halted and PC advances (D16, log 12), whatever the operand fields hold (D11, log 15). -/
def Obligations.HaltResult : Prop :=
  ∀ (o : Operand) (s : State), exec (.halt o) s = .next { s with status := .halted, pc := s.pc + 1 }

/-- No instruction stops the machine: every error is an ordinary next state (R216). -/
def Obligations.EveryInstructionHasANextState : Prop :=
  ∀ (i : Instr) (s : State), ∃ t, exec i s = .next t

/-- What each instruction may write (R28): ACC only by LOAD, ADD, SUB; memory only by STORE; STATUS only by HALT or a fault; ERR
only by a fault; STEP by none. -/
def Obligations.WhatEachInstructionMayWrite : Prop :=
  ∀ (i : Instr) (s t : State), exec i s = .next t →
    (t.acc ≠ s.acc → ∃ o, i = .load o ∨ i = .add o ∨ i = .sub o) ∧
    (t.mem ≠ s.mem → ∃ o a, i = .store o ∧ DestCell s o a ∧ s.mem.inRange a ∧ ∀ b, b ≠ a → memRead b t = memRead b s) ∧
    (t.status ≠ s.status → t.status = .faulted ∨ (t.status = .halted ∧ ∃ o, i = .halt o)) ∧
    (t.err ≠ s.err → t.status = .faulted) ∧
    t.step = s.step

/-- No instruction, and no step, writes the program store (R236). -/
def Obligations.ProgramStoreIsNeverWritten : Prop :=
  (∀ (i : Instr) (s t : State), exec i s = .next t → t.prog = s.prog) ∧
  (∀ s t : State, step s = .next t → t.prog = s.prog)

/-! ### The execution loop -/

/-- Fetching a known instruction below the ceiling, the step is the instruction's meaning with STEP counted once more, or not at
all when it faulted (R163, R166; the counting is D24, D25). -/
def Obligations.StepRunsTheFetchedInstruction : Prop :=
  ∀ (i : Instr) (s t : State), s.status = .running → s.prog[s.pc]? = some (.known i) → s.step ≠ Config.maxSteps →
    exec i s = .next t →
    step s = .next (if t.status = .faulted then t else { t with step := t.step + 1 })

/-- A word stored where the machine fetches runs as the very next step: its instruction, or UnknownOpcode (log 10). -/
def Obligations.FetchWordRunsNext : Prop :=
  ∀ (s : State) (nbits w : Nat),
    (∀ i t, decodeTableWord nbits w = some i → exec i (s.withFetchWord nbits w) = .next t →
      step (s.withFetchWord nbits w) = .next (if t.status = .faulted then t else { t with step := t.step + 1 })) ∧
    (decodeTableWord nbits w = none → ∃ t k, step (s.withFetchWord nbits w) = .next t ∧ t.status = .faulted ∧
      t.err = some ⟨.unknownOpcode, 0, some (decodeStored nbits w), some k⟩ ∧ t.pc = 0 ∧ t.step = 0)

/-- Exhaustion (R170): with `PC >= LEN` the run ends Halted, whatever the ceiling and STEP are (the order is D23); no step is
executed, no record is emitted, and PC and ERR keep their values. -/
def Obligations.ExhaustionEndsHalted : Prop :=
  ∀ (c : Nat) (s : State), s.status = .running → s.prog.length ≤ s.pc →
    loopPass c s = .next { s with status := .halted } ∧ passRecords c s = [] ∧ step s = .next { s with status := .halted }

/-- The ceiling (R171, D23): with `PC < LEN` and STEP = MAX_STEPS, StepLimitExceeded at the instruction that was not executed. -/
def Obligations.CeilingEndsFaulted : Prop :=
  ∀ (c : Nat) (s : State), s.status = .running → s.pc < s.prog.length → s.step = c →
    loopPass c s = .next { s with status := .faulted, err := some ⟨.stepLimitExceeded, s.pc, none, none⟩ } ∧
    passRecords c s = []

/-- UNKNOWN(k) faults before its operand is examined (R165, R201), and no instruction of the eight reports UnknownOpcode. -/
def Obligations.UnknownOpcodeFaults : Prop :=
  (∀ (k : Nat) (o : Operand) (s : State), s.status = .running → s.prog[s.pc]? = some (.unknown k o) →
    s.step ≠ Config.maxSteps →
    step s = .next { s with status := .faulted, err := some ⟨.unknownOpcode, s.pc, some (.unknown k o), some k⟩ }) ∧
  (∀ (i : Instr) (s t : State) (r : ErrReport), exec i s = .next t → t.err = some r → r.kind = .unknownOpcode → s.err = some r)

/-- Faults are precise (R166, R212, R213): a step that ends Faulted changed only STATUS and ERR, and ERR names its PC. -/
def Obligations.FaultsArePrecise : Prop :=
  ∀ s t : State, step s = .next t → t.status = .faulted →
    ∃ r : ErrReport, r.pc = s.pc ∧ t = { s with status := .faulted, err := some r }

/-- STEP counts completed steps (R30, R219; D24, D25): one more for a completed step, unchanged by a fault or by exhaustion. -/
def Obligations.StepCountsCompletedSteps : Prop :=
  ∀ s t : State, step s = .next t →
    t.step = if t.status = .faulted ∨ s.prog.length ≤ s.pc then s.step else s.step + 1

/-- PC after a step (R23, R167): unchanged by a fault or exhaustion, the target for JMP and a taken JZ, one more otherwise (HALT's
advance is D16, log 12). -/
def Obligations.PcUpdatePolicy : Prop :=
  ∀ s t : State, step s = .next t →
    ((t.status = .faulted ∨ s.prog.length ≤ s.pc) → t.pc = s.pc) ∧
    (∀ i, s.prog[s.pc]? = some (.known i) → t.status ≠ .faulted →
      (∀ o, i = .jmp o → (t.pc : Int) = o.n) ∧
      (∀ o, i = .jz o → (s.acc = 0 → (t.pc : Int) = o.n) ∧ (s.acc ≠ 0 → t.pc = s.pc + 1)) ∧
      ((∀ o, i ≠ .jmp o ∧ i ≠ .jz o) → t.pc = s.pc + 1))

/-- The transitions of STATUS by the core (R160): it moves only from Running, stays Running, becomes Halted exactly by
exhaustion or by a HALT below the ceiling, or becomes Faulted. -/
def Obligations.StatusTransitions : Prop :=
  ∀ s t : State, step s = .next t →
    s.status = .running ∧ t.status ≠ .idle ∧
    (t.status = .halted ↔ s.prog.length ≤ s.pc ∨
      (s.step ≠ Config.maxSteps ∧ ∃ o, s.prog[s.pc]? = some (.known (.halt o))))

/-- The model's choice (log 8): outside Running the core has no transition, and inside it always has a next state. -/
def Obligations.NoTransitionUnlessRunning : Prop :=
  ∀ s : State, (s.status ≠ .running → step s = .fault .notRunning) ∧ (s.status = .running → ∃ t, step s = .next t)

/-- The records of a completed step (R168, R186; D13, D24, D25): for OUTPUT its output record first, then exactly one trace record,
of the step's index, the instruction's index and the registers after the handler; a faulting step emits none. -/
def Obligations.RecordsOfAStep : Prop :=
  ∀ (c : Nat) (d : Decoded) (s t : State), s.status = .running → s.prog[s.pc]? = some d → s.step ≠ c →
    dispatch d s = .next t →
    (t.status = .faulted → passRecords c s = []) ∧
    (t.status ≠ .faulted → (∀ o, d ≠ .known (.output o)) →
      passRecords c s = [.trace ⟨s.step, s.pc, d, t.acc, t.r1, t.r2⟩]) ∧
    (∀ o, t.status ≠ .faulted → d = .known (.output o) →
      ∃ r, outputRecord o s = some r ∧ passRecords c s = [.output r, .trace ⟨s.step, s.pc, d, t.acc, t.r1, t.r2⟩])

/-- Every run ends (R176): Halted or Faulted, with at most MAX_STEPS steps, the program as it was. -/
def Obligations.EveryRunEnds : Prop :=
  ∀ (c : Nat) (s : State),
    (runProgram c s).1.ended ∧ (runProgram c s).1.prog = s.prog ∧ (s.prog ≠ [] → (runProgram c s).1.step ≤ c)

/-- The trace of a run has one record for each completed step, numbered 0, 1, … up to STEP (R30, R168; D24). -/
def Obligations.TraceNumbersTheSteps : Prop :=
  ∀ (c : Nat) (s : State), s.prog ≠ [] →
    (traceStream (runProgram c s).2).map (fun r => r.step) = List.range (runProgram c s).1.step

/-- Run entry (R231): the run of a non-empty program depends on what was in ACC, R1, R2, MEM and PROG, and on nothing that was in
PC, STEP, STATUS or ERR. -/
def Obligations.RunDependsOnRegistersMemoryProgram : Prop :=
  ∀ (c : Nat) (s t : State), s.prog ≠ [] → t.prog = s.prog → t.acc = s.acc → t.r1 = s.r1 → t.r2 = s.r2 → t.mem = s.mem →
    runProgram c t = runProgram c s

/-! ### The host interface -/

/-- EmptyProgram (R206): raised by the run entry of an empty program, with the PC there was and no instruction, and by no step
(its effects are D22). -/
def Obligations.EmptyProgramIsRaisedByRunEntryOnly : Prop :=
  (∀ (c : Nat) (s : State), s.status ≠ .running → s.prog = [] →
    hostRun c s = .ok ({ s with status := .faulted, err := some ⟨.emptyProgram, s.pc, none, none⟩ }, [])) ∧
  (∀ (s t : State) (r : ErrReport), step s = .next t → t.err = some r → r.kind = .emptyProgram → s.err = some r)

/-- Load (R232): it replaces PROG, writes STATUS and ERR, and nothing else (D32). -/
def Obligations.LoadReplacesOnlyTheProgram : Prop :=
  ∀ (p : List Decoded) (s : State), s.status ≠ .running →
    hostLoad p s = .ok { s with prog := p, status := .idle, err := none }

/-- Host access to memory (R183 to R185; the host's use of it is D31): a write is read back, touches no other cell, and out of
range both are refused with the address; while a run is in progress every access is refused (log 22). -/
def Obligations.HostMemoryAccess : Prop :=
  ∀ (a : Int) (v : Value) (s : State),
    (s.status ≠ .running → s.mem.inRange a → ∃ t, hostWriteMem a v s = .ok t ∧ hostReadMem a t = .ok v ∧
      (∀ b, b ≠ a → hostReadMem b t = hostReadMem b s) ∧ t = { s with mem := t.mem }) ∧
    (s.status ≠ .running → ¬ s.mem.inRange a →
      hostWriteMem a v s = .error (.outOfRangeAddress a) ∧ hostReadMem a s = .error (.outOfRangeAddress a)) ∧
    (s.status = .running → hostWriteMem a v s = .error .runInProgress ∧ hostReadMem a s = .error .runInProgress)

/-! ### The text level of the output stream (43_output.md R140) -/

/-- A completed OUTPUT of a text program emits the token string as the program gave it, absent where there is none (D12, log 14),
with the resolved value (D13, log 11); a faulting one emits nothing. The form, a function of the loaded text, is log 23. -/
def Obligations.OutputRecordCarriesTheToken : Prop :=
  ∀ (c : Nat) (s : State) (ts : List (Text × Option Text)) (m : Text) (tok : Option Text), s.prog = textProgram ts →
    s.status = .running → s.step ≠ c → ts[s.pc]? = some (m, tok) → m = mnemonic (.output ⟨.none, .acc, 0⟩) →
    (tok = none → textOutputStream ts (passRecords c s) = [⟨none, s.acc, s.r1, s.r2, none⟩]) ∧
    (∀ v, Denotes s (tokenize tok) v → textOutputStream ts (passRecords c s) = [⟨tok, s.acc, s.r1, s.r2, some v⟩]) ∧
    (∀ e, tok ≠ none → ReadFault s (tokenize tok) e → textOutputStream ts (passRecords c s) = [])

/-- Over a whole run of a text program, the output stream at the text level, its tokens tokenized, is the output stream: the same
records, in the same order. The form, a function of the loaded text, is log 23. -/
def Obligations.TextOutputStreamTokenizesToTheOutputStream : Prop :=
  ∀ (c : Nat) (s : State) (ts : List (Text × Option Text)), s.prog = textProgram ts →
    (textOutputStream ts (runProgram c s).2).map TextOutputRecord.decoded = outputStream (runProgram c s).2
end

