-- ==== Sys2Proof/Laws/Memory.lean ====
section
/-! SUPPORT. The laws of memory: what a cell reads as after a write, and that every operation keeps the canonical form. -/

namespace Sys2Proof.Machine

theorem cellsGet_cellsErase (l : List Cell) (a b : Nat) :
    cellsGet (cellsErase l a) b = if b = a then unlistedCell else cellsGet l b := by
  induction l with
  | nil => simp [cellsErase, cellsGet]
  | cons c rest ih =>
    by_cases hc : c.1 = a
    · simp only [cellsErase, if_pos hc, ih, cellsGet]
      by_cases hb : b = a
      · simp [hb]
      · have : c.1 ≠ b := fun h => hb (h ▸ hc)
        simp [hb, this]
    · simp only [cellsErase, if_neg hc, cellsGet, ih]
      by_cases hb : b = a
      · subst hb; simp [hc]
      · simp [hb]

/-- Every entry that is left was there, under another address. -/
theorem mem_cellsErase {l : List Cell} {a : Nat} {c : Cell} (h : c ∈ cellsErase l a) : c ∈ l ∧ c.1 ≠ a := by
  induction l with
  | nil => simp [cellsErase] at h
  | cons d rest ih =>
    by_cases hd : d.1 = a
    · rw [cellsErase, if_pos hd] at h
      exact ⟨List.mem_cons_of_mem _ (ih h).1, (ih h).2⟩
    · rw [cellsErase, if_neg hd, List.mem_cons] at h
      rcases h with rfl | h
      · exact ⟨List.mem_cons_self, hd⟩
      · exact ⟨List.mem_cons_of_mem _ (ih h).1, (ih h).2⟩

theorem cellsErase_pairwise {l : List Cell} (a : Nat) (h : l.Pairwise (fun c d => c.1 < d.1)) :
    (cellsErase l a).Pairwise (fun c d => c.1 < d.1) := by
  induction l with
  | nil => exact h
  | cons c rest ih =>
    rw [List.pairwise_cons] at h
    by_cases hc : c.1 = a
    · rw [cellsErase, if_pos hc]; exact ih h.2
    · rw [cellsErase, if_neg hc, List.pairwise_cons]
      exact ⟨fun d hd => h.1 d (mem_cellsErase hd).1, ih h.2⟩

theorem mem_cellsInsert {l : List Cell} {c d : Cell} : c ∈ cellsInsert l d ↔ c = d ∨ c ∈ l := by
  induction l with
  | nil => simp [cellsInsert]
  | cons e rest ih =>
    by_cases he : e.1 < d.1
    · simp only [cellsInsert, if_pos he, List.mem_cons, ih]; tauto
    · simp only [cellsInsert, if_neg he, List.mem_cons]

theorem cellsInsert_pairwise {l : List Cell} {d : Cell} (h : l.Pairwise (fun c d => c.1 < d.1))
    (hd : ∀ c ∈ l, c.1 ≠ d.1) : (cellsInsert l d).Pairwise (fun c d => c.1 < d.1) := by
  induction l with
  | nil => simp [cellsInsert]
  | cons e rest ih =>
    rw [List.pairwise_cons] at h
    have hrest : ∀ c ∈ rest, c.1 ≠ d.1 := fun c hc => hd c (List.mem_cons_of_mem _ hc)
    by_cases he : e.1 < d.1
    · rw [cellsInsert, if_pos he, List.pairwise_cons]
      refine ⟨fun c hc => ?_, ih h.2 hrest⟩
      rcases mem_cellsInsert.1 hc with rfl | hc
      · exact he
      · exact h.1 c hc
    · have hlt : d.1 < e.1 := by have := hd e List.mem_cons_self; omega
      rw [cellsInsert, if_neg he, List.pairwise_cons, List.pairwise_cons]
      refine ⟨fun c hc => ?_, h⟩
      rcases List.mem_cons.1 hc with rfl | hc
      · exact hlt
      · exact hlt.trans (h.1 c hc)

theorem cellsGet_cellsInsert {l : List Cell} {d : Cell} (hd : ∀ c ∈ l, c.1 ≠ d.1) (b : Nat) :
    cellsGet (cellsInsert l d) b = if b = d.1 then d.2 else cellsGet l b := by
  induction l with
  | nil => simp [cellsInsert, cellsGet, eq_comm]
  | cons e rest ih =>
    have hrest : ∀ c ∈ rest, c.1 ≠ d.1 := fun c hc => hd c (List.mem_cons_of_mem _ hc)
    have hed := hd e List.mem_cons_self
    by_cases he : e.1 < d.1
    · simp only [cellsInsert, if_pos he, cellsGet, ih hrest]
      by_cases hb : b = d.1
      · subst hb; simp [hed]
      · simp [hb]
    · simp only [cellsInsert, if_neg he, cellsGet]
      by_cases hb : b = d.1
      · subst hb; simp
      · simp [hb, Ne.symm hb]

/-- One lemma for a write: the cell reads as written, and every other cell as before. -/
theorem Memory.get_put (m : Memory) (a b : Nat) (v : Value) :
    (m.put a v).get b = if b = a then v else m.get b := by
  show cellsGet (cellsPut m.cells a v) b = if b = a then v else cellsGet m.cells b
  by_cases hv : v = unlistedCell
  · rw [cellsPut, if_pos hv, cellsGet_cellsErase, hv]
  · rw [cellsPut, if_neg hv,
      cellsGet_cellsInsert (d := (a, v)) (fun c hc => (mem_cellsErase hc).2), cellsGet_cellsErase]
    by_cases hb : b = a <;> simp [hb]

@[simp] theorem Memory.put_size (m : Memory) (a : Nat) (v : Value) : (m.put a v).size = m.size := rfl

/-- A write to a cell of the array keeps the canonical form. -/
theorem Memory.put_wf {m : Memory} (h : m.wf) {a : Nat} (ha : a < m.size) (v : Value) : (m.put a v).wf := by
  obtain ⟨hpos, hsorted, hcells⟩ := h
  refine ⟨hpos, ?_, ?_⟩
  · show (cellsPut m.cells a v).Pairwise _
    by_cases hv : v = unlistedCell
    · rw [cellsPut, if_pos hv]; exact cellsErase_pairwise a hsorted
    · rw [cellsPut, if_neg hv]
      exact cellsInsert_pairwise (cellsErase_pairwise a hsorted) (fun c hc => (mem_cellsErase hc).2)
  · intro c hc
    change c ∈ cellsPut m.cells a v at hc
    by_cases hv : v = unlistedCell
    · rw [cellsPut, if_pos hv] at hc; exact hcells c (mem_cellsErase hc).1
    · rw [cellsPut, if_neg hv] at hc
      rcases mem_cellsInsert.1 hc with rfl | hc
      · exact ⟨ha, hv⟩
      · exact hcells c (mem_cellsErase hc).1

/-- Memory after construction has the canonical form. -/
theorem Memory.zeroed_wf {size : Nat} (h : 0 < size) : (Memory.zeroed size).wf := by
  refine ⟨h, List.Pairwise.nil, ?_⟩
  intro c hc
  simp [Memory.zeroed] at hc

/-- Everything MemRead can do (20_memory.md R54). -/
theorem memRead_cases (a : Int) (s : State) :
    (s.mem.inRange a ∧ memRead a s = .ok (s.mem.get a.toNat))
      ∨ (¬ s.mem.inRange a ∧ memRead a s = .error (outOfRange a)) := by
  by_cases h : s.mem.inRange a
  · exact .inl ⟨h, if_pos h⟩
  · exact .inr ⟨h, if_neg h⟩

/-- Everything MemWrite can do (20_memory.md R55). -/
theorem memWrite_cases (a : Int) (v : Value) (s : State) :
    (s.mem.inRange a ∧ memWrite a v s = .ok (s.setMem (s.mem.put a.toNat v)))
      ∨ (¬ s.mem.inRange a ∧ memWrite a v s = .error (outOfRange a)) := by
  by_cases h : s.mem.inRange a
  · exact .inl ⟨h, if_pos h⟩
  · exact .inr ⟨h, if_neg h⟩

end Sys2Proof.Machine
end

