-- ==== Sys2Proof/Laws/State.lean ====
section
/-! SUPPORT. One lemma per field per update of the state record, so that no proof unfolds an update. -/

namespace Sys2Proof.Machine

@[simp] theorem State.setAcc_acc (s : State) (x : Value) : (s.setAcc x).acc = x := rfl
@[simp] theorem State.setAcc_r1 (s : State) (x : Value) : (s.setAcc x).r1 = s.r1 := rfl
@[simp] theorem State.setAcc_r2 (s : State) (x : Value) : (s.setAcc x).r2 = s.r2 := rfl
@[simp] theorem State.setAcc_pc (s : State) (x : Value) : (s.setAcc x).pc = s.pc := rfl
@[simp] theorem State.setAcc_mem (s : State) (x : Value) : (s.setAcc x).mem = s.mem := rfl
@[simp] theorem State.setAcc_prog (s : State) (x : Value) : (s.setAcc x).prog = s.prog := rfl
@[simp] theorem State.setAcc_status (s : State) (x : Value) : (s.setAcc x).status = s.status := rfl
@[simp] theorem State.setAcc_step (s : State) (x : Value) : (s.setAcc x).step = s.step := rfl
@[simp] theorem State.setAcc_err (s : State) (x : Value) : (s.setAcc x).err = s.err := rfl

@[simp] theorem State.setR1_acc (s : State) (x : Value) : (s.setR1 x).acc = s.acc := rfl
@[simp] theorem State.setR1_r1 (s : State) (x : Value) : (s.setR1 x).r1 = x := rfl
@[simp] theorem State.setR1_r2 (s : State) (x : Value) : (s.setR1 x).r2 = s.r2 := rfl
@[simp] theorem State.setR1_pc (s : State) (x : Value) : (s.setR1 x).pc = s.pc := rfl
@[simp] theorem State.setR1_mem (s : State) (x : Value) : (s.setR1 x).mem = s.mem := rfl
@[simp] theorem State.setR1_prog (s : State) (x : Value) : (s.setR1 x).prog = s.prog := rfl
@[simp] theorem State.setR1_status (s : State) (x : Value) : (s.setR1 x).status = s.status := rfl
@[simp] theorem State.setR1_step (s : State) (x : Value) : (s.setR1 x).step = s.step := rfl
@[simp] theorem State.setR1_err (s : State) (x : Value) : (s.setR1 x).err = s.err := rfl

@[simp] theorem State.setR2_acc (s : State) (x : Value) : (s.setR2 x).acc = s.acc := rfl
@[simp] theorem State.setR2_r1 (s : State) (x : Value) : (s.setR2 x).r1 = s.r1 := rfl
@[simp] theorem State.setR2_r2 (s : State) (x : Value) : (s.setR2 x).r2 = x := rfl
@[simp] theorem State.setR2_pc (s : State) (x : Value) : (s.setR2 x).pc = s.pc := rfl
@[simp] theorem State.setR2_mem (s : State) (x : Value) : (s.setR2 x).mem = s.mem := rfl
@[simp] theorem State.setR2_prog (s : State) (x : Value) : (s.setR2 x).prog = s.prog := rfl
@[simp] theorem State.setR2_status (s : State) (x : Value) : (s.setR2 x).status = s.status := rfl
@[simp] theorem State.setR2_step (s : State) (x : Value) : (s.setR2 x).step = s.step := rfl
@[simp] theorem State.setR2_err (s : State) (x : Value) : (s.setR2 x).err = s.err := rfl

@[simp] theorem State.setPc_acc (s : State) (x : Nat) : (s.setPc x).acc = s.acc := rfl
@[simp] theorem State.setPc_r1 (s : State) (x : Nat) : (s.setPc x).r1 = s.r1 := rfl
@[simp] theorem State.setPc_r2 (s : State) (x : Nat) : (s.setPc x).r2 = s.r2 := rfl
@[simp] theorem State.setPc_pc (s : State) (x : Nat) : (s.setPc x).pc = x := rfl
@[simp] theorem State.setPc_mem (s : State) (x : Nat) : (s.setPc x).mem = s.mem := rfl
@[simp] theorem State.setPc_prog (s : State) (x : Nat) : (s.setPc x).prog = s.prog := rfl
@[simp] theorem State.setPc_status (s : State) (x : Nat) : (s.setPc x).status = s.status := rfl
@[simp] theorem State.setPc_step (s : State) (x : Nat) : (s.setPc x).step = s.step := rfl
@[simp] theorem State.setPc_err (s : State) (x : Nat) : (s.setPc x).err = s.err := rfl

@[simp] theorem State.setMem_acc (s : State) (x : Memory) : (s.setMem x).acc = s.acc := rfl
@[simp] theorem State.setMem_r1 (s : State) (x : Memory) : (s.setMem x).r1 = s.r1 := rfl
@[simp] theorem State.setMem_r2 (s : State) (x : Memory) : (s.setMem x).r2 = s.r2 := rfl
@[simp] theorem State.setMem_pc (s : State) (x : Memory) : (s.setMem x).pc = s.pc := rfl
@[simp] theorem State.setMem_mem (s : State) (x : Memory) : (s.setMem x).mem = x := rfl
@[simp] theorem State.setMem_prog (s : State) (x : Memory) : (s.setMem x).prog = s.prog := rfl
@[simp] theorem State.setMem_status (s : State) (x : Memory) : (s.setMem x).status = s.status := rfl
@[simp] theorem State.setMem_step (s : State) (x : Memory) : (s.setMem x).step = s.step := rfl
@[simp] theorem State.setMem_err (s : State) (x : Memory) : (s.setMem x).err = s.err := rfl

@[simp] theorem State.setProg_acc (s : State) (x : List Decoded) : (s.setProg x).acc = s.acc := rfl
@[simp] theorem State.setProg_r1 (s : State) (x : List Decoded) : (s.setProg x).r1 = s.r1 := rfl
@[simp] theorem State.setProg_r2 (s : State) (x : List Decoded) : (s.setProg x).r2 = s.r2 := rfl
@[simp] theorem State.setProg_pc (s : State) (x : List Decoded) : (s.setProg x).pc = s.pc := rfl
@[simp] theorem State.setProg_mem (s : State) (x : List Decoded) : (s.setProg x).mem = s.mem := rfl
@[simp] theorem State.setProg_prog (s : State) (x : List Decoded) : (s.setProg x).prog = x := rfl
@[simp] theorem State.setProg_status (s : State) (x : List Decoded) : (s.setProg x).status = s.status := rfl
@[simp] theorem State.setProg_step (s : State) (x : List Decoded) : (s.setProg x).step = s.step := rfl
@[simp] theorem State.setProg_err (s : State) (x : List Decoded) : (s.setProg x).err = s.err := rfl

@[simp] theorem State.setStatus_acc (s : State) (x : Status) : (s.setStatus x).acc = s.acc := rfl
@[simp] theorem State.setStatus_r1 (s : State) (x : Status) : (s.setStatus x).r1 = s.r1 := rfl
@[simp] theorem State.setStatus_r2 (s : State) (x : Status) : (s.setStatus x).r2 = s.r2 := rfl
@[simp] theorem State.setStatus_pc (s : State) (x : Status) : (s.setStatus x).pc = s.pc := rfl
@[simp] theorem State.setStatus_mem (s : State) (x : Status) : (s.setStatus x).mem = s.mem := rfl
@[simp] theorem State.setStatus_prog (s : State) (x : Status) : (s.setStatus x).prog = s.prog := rfl
@[simp] theorem State.setStatus_status (s : State) (x : Status) : (s.setStatus x).status = x := rfl
@[simp] theorem State.setStatus_step (s : State) (x : Status) : (s.setStatus x).step = s.step := rfl
@[simp] theorem State.setStatus_err (s : State) (x : Status) : (s.setStatus x).err = s.err := rfl

@[simp] theorem State.setStep_acc (s : State) (x : Nat) : (s.setStep x).acc = s.acc := rfl
@[simp] theorem State.setStep_r1 (s : State) (x : Nat) : (s.setStep x).r1 = s.r1 := rfl
@[simp] theorem State.setStep_r2 (s : State) (x : Nat) : (s.setStep x).r2 = s.r2 := rfl
@[simp] theorem State.setStep_pc (s : State) (x : Nat) : (s.setStep x).pc = s.pc := rfl
@[simp] theorem State.setStep_mem (s : State) (x : Nat) : (s.setStep x).mem = s.mem := rfl
@[simp] theorem State.setStep_prog (s : State) (x : Nat) : (s.setStep x).prog = s.prog := rfl
@[simp] theorem State.setStep_status (s : State) (x : Nat) : (s.setStep x).status = s.status := rfl
@[simp] theorem State.setStep_step (s : State) (x : Nat) : (s.setStep x).step = x := rfl
@[simp] theorem State.setStep_err (s : State) (x : Nat) : (s.setStep x).err = s.err := rfl

@[simp] theorem State.setErr_acc (s : State) (x : Option ErrReport) : (s.setErr x).acc = s.acc := rfl
@[simp] theorem State.setErr_r1 (s : State) (x : Option ErrReport) : (s.setErr x).r1 = s.r1 := rfl
@[simp] theorem State.setErr_r2 (s : State) (x : Option ErrReport) : (s.setErr x).r2 = s.r2 := rfl
@[simp] theorem State.setErr_pc (s : State) (x : Option ErrReport) : (s.setErr x).pc = s.pc := rfl
@[simp] theorem State.setErr_mem (s : State) (x : Option ErrReport) : (s.setErr x).mem = s.mem := rfl
@[simp] theorem State.setErr_prog (s : State) (x : Option ErrReport) : (s.setErr x).prog = s.prog := rfl
@[simp] theorem State.setErr_status (s : State) (x : Option ErrReport) : (s.setErr x).status = s.status := rfl
@[simp] theorem State.setErr_step (s : State) (x : Option ErrReport) : (s.setErr x).step = s.step := rfl
@[simp] theorem State.setErr_err (s : State) (x : Option ErrReport) : (s.setErr x).err = x := rfl

@[simp] theorem State.advance_acc (s : State) : s.advance.acc = s.acc := rfl
@[simp] theorem State.advance_r1 (s : State) : s.advance.r1 = s.r1 := rfl
@[simp] theorem State.advance_r2 (s : State) : s.advance.r2 = s.r2 := rfl
@[simp] theorem State.advance_pc (s : State) : s.advance.pc = s.pc + 1 := rfl
@[simp] theorem State.advance_mem (s : State) : s.advance.mem = s.mem := rfl
@[simp] theorem State.advance_prog (s : State) : s.advance.prog = s.prog := rfl
@[simp] theorem State.advance_status (s : State) : s.advance.status = s.status := rfl
@[simp] theorem State.advance_step (s : State) : s.advance.step = s.step := rfl
@[simp] theorem State.advance_err (s : State) : s.advance.err = s.err := rfl

@[simp] theorem faultEntry_acc (e : Raise) (p : Nat) (i : Option Decoded) (s : State) :
    (faultEntry e p i s).acc = s.acc := rfl
@[simp] theorem faultEntry_r1 (e : Raise) (p : Nat) (i : Option Decoded) (s : State) :
    (faultEntry e p i s).r1 = s.r1 := rfl
@[simp] theorem faultEntry_r2 (e : Raise) (p : Nat) (i : Option Decoded) (s : State) :
    (faultEntry e p i s).r2 = s.r2 := rfl
@[simp] theorem faultEntry_pc (e : Raise) (p : Nat) (i : Option Decoded) (s : State) :
    (faultEntry e p i s).pc = s.pc := rfl
@[simp] theorem faultEntry_mem (e : Raise) (p : Nat) (i : Option Decoded) (s : State) :
    (faultEntry e p i s).mem = s.mem := rfl
@[simp] theorem faultEntry_prog (e : Raise) (p : Nat) (i : Option Decoded) (s : State) :
    (faultEntry e p i s).prog = s.prog := rfl
@[simp] theorem faultEntry_status (e : Raise) (p : Nat) (i : Option Decoded) (s : State) :
    (faultEntry e p i s).status = .faulted := rfl
@[simp] theorem faultEntry_step (e : Raise) (p : Nat) (i : Option Decoded) (s : State) :
    (faultEntry e p i s).step = s.step := rfl
@[simp] theorem faultEntry_err (e : Raise) (p : Nat) (i : Option Decoded) (s : State) :
    (faultEntry e p i s).err = some ⟨e.kind, p, i, e.info⟩ := rfl

@[simp] theorem regWrite_pc (r : Reg) (v : Value) (s : State) : (regWrite r v s).pc = s.pc := by
  cases r <;> rfl
@[simp] theorem regWrite_mem (r : Reg) (v : Value) (s : State) : (regWrite r v s).mem = s.mem := by
  cases r <;> rfl
@[simp] theorem regWrite_prog (r : Reg) (v : Value) (s : State) : (regWrite r v s).prog = s.prog := by
  cases r <;> rfl
@[simp] theorem regWrite_status (r : Reg) (v : Value) (s : State) : (regWrite r v s).status = s.status := by
  cases r <;> rfl
@[simp] theorem regWrite_step (r : Reg) (v : Value) (s : State) : (regWrite r v s).step = s.step := by
  cases r <;> rfl
@[simp] theorem regWrite_err (r : Reg) (v : Value) (s : State) : (regWrite r v s).err = s.err := by
  cases r <;> rfl

/-- A register reads as written, and the other two read as before. -/
theorem regRead_regWrite (q r : Reg) (v : Value) (s : State) :
    regRead q (regWrite r v s) = if q = r then v else regRead q s := by
  cases q <;> cases r <;> rfl

end Sys2Proof.Machine
end

