-- ==== Sys2Proof/Laws/Operands.lean ====
section
/-! SUPPORT. One lemma for each service of the resolver that says everything it can do. -/

namespace Sys2Proof.Machine

/-- A value comes from the read path only through the static checks and then the mode. -/
theorem resolveRead_ok {o : Operand} {s : State} {v : Value} (h : resolveRead o s = .ok v) :
    operandCheck o = none ∧ readMode o s = .ok v := by
  unfold resolveRead at h
  split at h
  · cases h
  · exact ⟨by assumption, h⟩

/-- Everything the write path can do when it returns: one register or one cell of MEM is written. -/
theorem resolveWrite_ok {o : Operand} {v : Value} {s s' : State} (h : resolveWrite o v s = .ok s') :
    (∃ r, o.mode = .reg ∧ namedReg o.reg = some r ∧ s' = regWrite r v s)
      ∨ (∃ r, o.mode = .idx ∧ indexReg o.reg = some r ∧ s.mem.inRange (o.n + regRead r s)
          ∧ s' = s.setMem (s.mem.put (o.n + regRead r s).toNat v))
      ∨ (o.mode = .dir ∧ s.mem.inRange o.n ∧ s' = s.setMem (s.mem.put o.n.toNat v)) := by
  unfold resolveWrite at h
  split at h
  · cases h
  unfold writeMode at h
  split at h
  case h_5 hm =>
    unfold indexedAddr at h
    cases hr : indexReg o.reg with
    | none => rw [hr] at h; cases h
    | some r =>
      rcases memWrite_cases (o.n + regRead r s) v s with ⟨hin, hw⟩ | ⟨_, hw⟩
      · simp only [hr, hw] at h; cases h
        exact .inr (.inl ⟨r, hm, rfl, hin, rfl⟩)
      · simp only [hr, hw] at h; cases h
  case h_6 hm =>
    unfold directReg at h
    cases hr : namedReg o.reg with
    | none => rw [hr] at h; cases h
    | some r => rw [hr] at h; cases h; exact .inl ⟨r, hm, rfl, rfl⟩
  case h_7 hm =>
    rcases memWrite_cases o.n v s with ⟨hin, hw⟩ | ⟨_, hw⟩
    · rw [hw] at h; cases h; exact .inr (.inr ⟨hm, hin, rfl⟩)
    · rw [hw] at h; cases h
  all_goals cases h

/-- A branch target is the payload of a bare non-negative integer. -/
theorem branchTarget_ok {o : Operand} {t : Nat} (h : branchTarget o = .ok t) :
    operandCheck o = none ∧ o.mode = .dir ∧ 0 ≤ o.n ∧ t = o.n.toNat := by
  unfold branchTarget at h
  split at h
  · cases h
  split at h
  · cases h
  split at h
  · cases h
  rename_i hc hm hn
  cases h
  exact ⟨hc, not_not.1 hm, not_lt.1 hn, rfl⟩

end Sys2Proof.Machine
end

