-- ==== Sys2Proof/Laws/Loop.lean ====
section
/-! SUPPORT. What a handler's end, an instruction, one pass of the loop and the step can do, said once each. -/

namespace Sys2Proof.Machine

/-- The end of a handler: the state the handler left, or the fault entry on the state before it. -/
theorem endHandler_next {i : Instr} {s t : State} {r : Except Raise State} (h : endHandler i s r = .next t) :
    r = .ok t ∨ ∃ e, r = .error e ∧ t = faultEntry e s.pc (some (.known i)) s := by
  unfold endHandler at h
  split at h
  · cases h; exact .inl rfl
  · cases h; exact .inr ⟨_, rfl, rfl⟩

/-- The end of a handler is a next state whatever the handler did. -/
theorem endHandler_total (i : Instr) (s : State) (r : Except Raise State) : ∃ t, endHandler i s r = .next t := by
  cases r with
  | ok t => exact ⟨t, rfl⟩
  | error e => exact ⟨_, rfl⟩

/-- Everything an instruction can do to the state: its fault entry, or one of the eight effects. -/
theorem exec_cases {i : Instr} {s t : State} (h : exec i s = .next t) :
    (∃ e, t = faultEntry e s.pc (some (.known i)) s)
      ∨ (∃ o v, i = .load o ∧ resolveRead o s = .ok v ∧ t = (s.setAcc v).advance)
      ∨ (∃ o s', i = .store o ∧ resolveWrite o s.acc s = .ok s' ∧ t = s'.advance)
      ∨ (∃ o v, i = .add o ∧ resolveRead o s = .ok v ∧ t = (s.setAcc (s.acc + v)).advance)
      ∨ (∃ o v, i = .sub o ∧ resolveRead o s = .ok v ∧ t = (s.setAcc (s.acc - v)).advance)
      ∨ (∃ o, i = .output o ∧ t = s.advance)
      ∨ (∃ o n, i = .jmp o ∧ branchTarget o = .ok n ∧ t = s.setPc n)
      ∨ (∃ o n, i = .jz o ∧ branchTarget o = .ok n ∧ t = if accIsZero s then s.setPc n else s.advance)
      ∨ (∃ o, i = .halt o ∧ t = (s.setStatus .halted).advance) := by
  cases i with
  | load o =>
    rcases endHandler_next h with hr | ⟨e, _, rfl⟩
    · unfold loadHandler at hr
      split at hr
      · cases hr; exact .inr (.inl ⟨o, _, rfl, by assumption, rfl⟩)
      · cases hr
    · exact .inl ⟨e, rfl⟩
  | store o =>
    rcases endHandler_next h with hr | ⟨e, _, rfl⟩
    · unfold storeHandler at hr
      split at hr
      · cases hr; exact .inr (.inr (.inl ⟨o, _, rfl, by assumption, rfl⟩))
      · cases hr
    · exact .inl ⟨e, rfl⟩
  | add o =>
    rcases endHandler_next h with hr | ⟨e, _, rfl⟩
    · unfold addHandler at hr
      split at hr
      · cases hr; exact .inr (.inr (.inr (.inl ⟨o, _, rfl, by assumption, rfl⟩)))
      · cases hr
    · exact .inl ⟨e, rfl⟩
  | sub o =>
    rcases endHandler_next h with hr | ⟨e, _, rfl⟩
    · unfold subHandler at hr
      split at hr
      · cases hr; exact .inr (.inr (.inr (.inr (.inl ⟨o, _, rfl, by assumption, rfl⟩))))
      · cases hr
    · exact .inl ⟨e, rfl⟩
  | output o =>
    rcases endHandler_next h with hr | ⟨e, _, rfl⟩
    · unfold outputHandler at hr
      split at hr
      · cases hr; exact .inr (.inr (.inr (.inr (.inr (.inl ⟨o, rfl, rfl⟩)))))
      · split at hr
        · cases hr; exact .inr (.inr (.inr (.inr (.inr (.inl ⟨o, rfl, rfl⟩)))))
        · cases hr
    · exact .inl ⟨e, rfl⟩
  | jmp o =>
    rcases endHandler_next h with hr | ⟨e, _, rfl⟩
    · unfold jmpHandler at hr
      split at hr
      · cases hr; exact .inr (.inr (.inr (.inr (.inr (.inr (.inl ⟨o, _, rfl, by assumption, rfl⟩))))))
      · cases hr
    · exact .inl ⟨e, rfl⟩
  | jz o =>
    rcases endHandler_next h with hr | ⟨e, _, rfl⟩
    · unfold jzHandler at hr
      split at hr
      · cases hr; exact .inr (.inr (.inr (.inr (.inr (.inr (.inr (.inl ⟨o, _, rfl, by assumption, rfl⟩)))))))
      · cases hr
    · exact .inl ⟨e, rfl⟩
  | halt o =>
    rcases endHandler_next (i := .halt o) (s := s) (r := haltHandler o s) h with hr | ⟨e, he, _⟩
    · cases hr; exact .inr (.inr (.inr (.inr (.inr (.inr (.inr (.inr ⟨o, rfl, rfl⟩)))))))
    · cases he

/-- Everything one pass of the loop can do: it runs only while Running, and then halts by exhaustion, faults at the ceiling,
faults on an unknown opcode, or runs the fetched instruction. -/
theorem loopPass_cases {c : Nat} {s t : State} (h : loopPass c s = .next t) :
    s.status = .running
      ∧ ((fetch s = none ∧ t = s.setStatus .halted)
        ∨ (∃ d, fetch s = some d ∧ s.step = c ∧ t = faultEntry ⟨.stepLimitExceeded, none⟩ s.pc none s)
        ∨ (∃ k o, fetch s = some (.unknown k o) ∧ s.step ≠ c
            ∧ t = faultEntry ⟨.unknownOpcode, some (k : Int)⟩ s.pc (some (.unknown k o)) s)
        ∨ (∃ i u, fetch s = some (.known i) ∧ s.step ≠ c ∧ exec i s = .next u ∧ t = countStep u)) := by
  unfold loopPass at h
  split at h
  case h_1 hs =>
    refine ⟨hs, ?_⟩
    split at h
    case h_1 hf => cases h; exact .inl ⟨hf, rfl⟩
    case h_2 d hf =>
      split at h
      case isTrue hc => cases h; exact .inr (.inl ⟨d, hf, hc, rfl⟩)
      case isFalse hc =>
        cases d with
        | unknown k o => cases h; exact .inr (.inr (.inl ⟨k, o, hf, hc, rfl⟩))
        | known i =>
          unfold stepOn dispatch at h
          cases hx : exec i s with
          | next u => simp only [hx] at h; cases h; exact .inr (.inr (.inr ⟨i, u, hf, hc, hx, rfl⟩))
          | fault r => simp only [hx] at h; cases h
          | refused r => simp only [hx] at h; cases h
  all_goals cases h

/-- Everything one pass of the loop can emit: nothing, the trace record of the fetched instruction, or, when that is an OUTPUT, its
output record and then its trace record. -/
theorem passRecords_cases (c : Nat) (s : State) :
    passRecords c s = []
      ∨ (∃ d t, fetch s = some d ∧ passRecords c s = [.trace (traceRecord d s t)])
      ∨ (∃ o r t, fetch s = some (.known (.output o)) ∧ outputRecord o s = some r
          ∧ passRecords c s = [.output r, .trace (traceRecord (.known (.output o)) s t)]) := by
  unfold passRecords
  split <;> try exact .inl rfl
  split <;> try exact .inl rfl
  rename_i d hf
  split <;> try exact .inl rfl
  unfold stepRecords
  split <;> try exact .inl rfl
  rename_i t _
  split <;> try exact .inl rfl
  match d with
  | .known (.output o) =>
    cases hr : outputRecord o s with
    | none => exact .inr (.inl ⟨_, t, hf, by simp [stepOutput, hr]⟩)
    | some r => exact .inr (.inr ⟨o, r, t, hf, hr, by simp [stepOutput, hr]⟩)
  | .known (.load _) | .known (.store _) | .known (.add _) | .known (.sub _) | .known (.jmp _) | .known (.jz _)
  | .known (.halt _) | .unknown _ _ => exact .inr (.inl ⟨_, t, hf, rfl⟩)

/-- The records of one pass stand at the front of the output stream at the text level as they do alone. -/
theorem textOutputStream_pass_append (ts : List (Text × Option Text)) (c : Nat) (s : State) (rest : List Record) :
    textOutputStream ts (passRecords c s ++ rest) = textOutputStream ts (passRecords c s) ++ textOutputStream ts rest := by
  rcases passRecords_cases c s with h | ⟨d, t, _, h⟩ | ⟨o, r, t, _, _, h⟩ <;> rw [h] <;> rfl

theorem traceStream_append (l m : List Record) : traceStream (l ++ m) = traceStream l ++ traceStream m := by
  induction l with
  | nil => rfl
  | cons r l ih => cases r <;> simp [traceStream, ih]

theorem outputStream_append (l m : List Record) : outputStream (l ++ m) = outputStream l ++ outputStream m := by
  induction l with
  | nil => rfl
  | cons r l ih => cases r <;> simp [outputStream, ih]

/-- The fault entry is not counted as a step. -/
theorem countStep_faultEntry (e : Raise) (p : Nat) (i : Option Decoded) (s : State) :
    countStep (faultEntry e p i s) = faultEntry e p i s := if_pos rfl

/-- A faulted state is not counted; any other is counted once. -/
theorem countStep_cases (s : State) :
    (s.status = .faulted ∧ countStep s = s) ∨ (s.status ≠ .faulted ∧ countStep s = s.setStep (s.step + 1)) := by
  by_cases h : s.status = .faulted
  · exact .inl ⟨h, if_pos h⟩
  · exact .inr ⟨h, if_neg h⟩

end Sys2Proof.Machine
end

