-- ==== Sys2Proof/Laws/PerInstr.lean ====
section
/-! SUPPORT. The family `OpField`, per instruction: the low four bits of every encoding are the row's opcode number
(30_encoding.md R72, R73). -/

namespace Sys2Proof.Laws

/-- The op field of a word is its value modulo 16. -/
theorem opField_eq {immW : Nat} (w : InstrWord immW) : opField w = w.toNat % 16 := by
  simp [opField, BitVec.extractLsb'_toNat]

/-- The op field of an encoding is the opcode number, for numbers below 16. -/
theorem opField_encode {immW : Nat} {d : Decoded} {w : InstrWord immW} (hd : decodedOpNum d < 16)
    (h : encode immW d = some w) : opField w = decodedOpNum d := by
  unfold encode at h
  split at h
  · cases h
    rw [opField_eq, BitVec.toNat_ofNat]
    have h16 : (16 : Nat) ∣ 2 ^ (9 + immW) := (Nat.pow_dvd_pow_iff_le_right (x := 2) (k := 4) (by omega)).2 (by omega)
    rw [Nat.mod_mod_of_dvd _ h16]
    unfold wordValue
    omega
  · cases h

/-- The op field of every word that encodes the instruction is its row's number. -/
def OpField.Statement (i : Instr) : Prop :=
  ∀ (immW : Nat) (w : InstrWord immW), encode immW (.known i) = some w → opField w = opNum i

theorem OpField.load (o : Operand) : OpField.Statement (.load o) := fun _ _ h => opField_encode (by simp [decodedOpNum, opNum]) h
theorem OpField.store (o : Operand) : OpField.Statement (.store o) := fun _ _ h => opField_encode (by simp [decodedOpNum, opNum]) h
theorem OpField.add (o : Operand) : OpField.Statement (.add o) := fun _ _ h => opField_encode (by simp [decodedOpNum, opNum]) h
theorem OpField.sub (o : Operand) : OpField.Statement (.sub o) := fun _ _ h => opField_encode (by simp [decodedOpNum, opNum]) h
theorem OpField.output (o : Operand) : OpField.Statement (.output o) := fun _ _ h => opField_encode (by simp [decodedOpNum, opNum]) h
theorem OpField.jmp (o : Operand) : OpField.Statement (.jmp o) := fun _ _ h => opField_encode (by simp [decodedOpNum, opNum]) h
theorem OpField.jz (o : Operand) : OpField.Statement (.jz o) := fun _ _ h => opField_encode (by simp [decodedOpNum, opNum]) h
theorem OpField.halt (o : Operand) : OpField.Statement (.halt o) := fun _ _ h => opField_encode (by simp [decodedOpNum, opNum]) h

end Sys2Proof.Laws
end

