-- ==== Sys2Proof/Tests/Slice0.lean ====
section
/-! SUPPORT. Tests. "V<n>" is a vector of 95_test_vectors.md: the expected values are the spec's, none is the model's own answer.
A `witness_X` shows that the hypotheses of the statement `Obligations.X` can be met together. -/

namespace Sys2Proof.Tests

open Sys2Proof.Machine

/-- The next state of an outcome. -/
def after (r : Host.Outcome State Fault Refusal) : Option State :=
  match r with
  | .next s => some s
  | .fault _ => none
  | .refused _ => none

/-- A machine of 100 cells at instruction `pc`, running, with these registers and listed cells. -/
def at_ (pc : Nat) (acc r1 r2 : Int) (cells : List Cell) : State :=
  ⟨acc, r1, r2, pc, ⟨100, cells⟩, [], .running, 0, none⟩

/-! ### Decoding: words written out from 30_encoding.md R72 (n, reg, mode, op) and the spec's own words -/

theorem test_decode_load : decode 23 (0b00000000000000000000101_00_001_0000#32) = .known (.load ⟨.imm, .acc, 5⟩) := by decide
theorem test_decode_store : decode 23 (0b00000000000000000011110_10_100_0001#32) = .known (.store ⟨.idx, .r2, 30⟩) := by decide
theorem test_decode_add : decode 23 (0b00000000000000000000110_00_011_0010#32) = .known (.add ⟨.rel, .acc, 6⟩) := by decide
theorem test_decode_sub : decode 23 (0b11111111111111111111110_00_001_0011#32) = .known (.sub ⟨.imm, .acc, -2⟩) := by decide
theorem test_decode_output : decode 23 (0b00000000000000000010100_00_110_0100#32) = .known (.output ⟨.dir, .acc, 20⟩) := by decide
theorem test_decode_jmp : decode 23 (0b00000000000000000000111_00_110_0101#32) = .known (.jmp ⟨.dir, .acc, 7⟩) := by decide
theorem test_decode_jz : decode 23 (0b00000000000000000000100_00_110_0110#32) = .known (.jz ⟨.dir, .acc, 4⟩) := by decide
theorem test_decode_halt : decode 23 (0x00000007#32) = .known (.halt ⟨.none, .acc, 0⟩) := by decide
/-- V3, V60, V59, V51, V50: indirect, all ones, an unknown opcode with a bad operand, a bad index register, a bad token. -/
theorem test_decode_reserved :
    decode 23 (0x00005220#32) = .known (.load ⟨.ind, .acc, 41⟩) ∧ decode 23 (0xFFFFFFFF#32) = .unknown 15 ⟨.bad, .other, -1⟩ ∧
    decode 23 (0x00000BF9#32) = .unknown 9 ⟨.bad, .other, 5⟩ ∧ decode 23 (0x000001C0#32) = .known (.load ⟨.idx, .other, 0⟩) ∧
    decode 23 (0x00000070#32) = .known (.load ⟨.bad, .acc, 0⟩) ∧ decode 23 (0x000000D1#32) = .known (.store ⟨.reg, .r1, 0⟩) := by
  decide
theorem test_decodeTableWord : decodeTableWord 32 0x00000A10 = some (.load ⟨.imm, .acc, 5⟩) ∧ decodeTableWord 32 0x0000041F = none := by
  decide
/-- 30_encoding.md section 6, and V39's large target. -/
theorem test_encode :
    encode 23 (.known (.load ⟨.imm, .acc, 5⟩)) = some 0x00000A10#32 ∧ encode 23 (.known (.sub ⟨.imm, .acc, -2⟩)) = some 0xFFFFFC13#32 ∧
    encode 23 (.known (.jmp ⟨.dir, .acc, 1000000⟩)) = some 0x1E848065#32 := by
  decide

/-! ### Well-formedness: an ill-formed term for each check -/

theorem test_wf_payload_limits :
    (Instr.load ⟨.imm, .acc, 4194303⟩).wf = true ∧ (Instr.load ⟨.imm, .acc, 4194304⟩).wf = false ∧
    (Instr.load ⟨.imm, .acc, -4194304⟩).wf = true ∧ (Instr.load ⟨.imm, .acc, -4194305⟩).wf = false := by
  decide
theorem test_wf_unknown_number :
    (Decoded.unknown 7 ⟨.none, .acc, 0⟩).wfAt 23 = false ∧ (Decoded.unknown 16 ⟨.none, .acc, 0⟩).wfAt 23 = false ∧
    (Decoded.unknown 8 ⟨.none, .acc, 4194304⟩).wfAt 23 = false := by
  decide
theorem test_wf_text :
    (⟨.none, .r1, 0⟩ : Operand).hasText = false ∧ (⟨.none, .acc, 2⟩ : Operand).hasText = false ∧
    (⟨.imm, .r1, 0⟩ : Operand).hasText = false ∧ (⟨.ind, .r2, 0⟩ : Operand).hasText = false ∧
    (⟨.rel, .other, 0⟩ : Operand).hasText = false ∧ (⟨.idx, .acc, 0⟩ : Operand).hasText = false ∧
    (⟨.idx, .other, 0⟩ : Operand).hasText = false ∧ (⟨.reg, .other, 0⟩ : Operand).hasText = false ∧
    (⟨.reg, .r1, 4⟩ : Operand).hasText = false ∧ (⟨.dir, .r1, 3⟩ : Operand).hasText = false ∧
    (⟨.bad, .acc, 0⟩ : Operand).hasText = false := by
  decide
theorem test_memory_wf :
    ¬ (⟨0, []⟩ : Memory).wf ∧ ¬ (⟨100, [(3, 0)]⟩ : Memory).wf ∧ ¬ (⟨100, [(100, 1)]⟩ : Memory).wf ∧
    ¬ (⟨100, [(3, 1), (3, 2)]⟩ : Memory).wf ∧ (⟨100, [(3, 1), (99, 2)]⟩ : Memory).wf := by
  decide

/-! ### Text level (V54) -/

theorem test_tokenize_good :
    tokenize (some ['#', '-', '7']) = ⟨.imm, .acc, -7⟩ ∧ tokenize (some ['@', '4', '1']) = ⟨.ind, .acc, 41⟩ ∧
    tokenize (some ['+', '-', '1']) = ⟨.rel, .acc, -1⟩ ∧ tokenize (some ['4', '9', '(', 'R', '2', ')']) = ⟨.idx, .r2, 49⟩ ∧
    tokenize (some ['-', '2', '(', 'R', '2', ')']) = ⟨.idx, .r2, -2⟩ ∧ tokenize (some ['R', '1']) = ⟨.reg, .r1, 0⟩ ∧
    tokenize (some ['0', '0', '7']) = ⟨.dir, .acc, 7⟩ ∧ tokenize (some ['-', '0']) = ⟨.dir, .acc, 0⟩ ∧
    tokenize (some ['0', '(', 'A', 'C', 'C', ')']) = ⟨.idx, .acc, 0⟩ ∧ tokenize (some ['0', '(', ')']) = ⟨.idx, .other, 0⟩ ∧
    tokenize (some ['x', '(', 'R', '3', ')']) = ⟨.idx, .other, 0⟩ ∧ tokenize none = ⟨.none, .acc, 0⟩ := by
  decide
theorem test_tokenize_bad :
    tokenize (some []) = badOperand ∧ tokenize (some ['#']) = badOperand ∧ tokenize (some ['#', '+', '5']) = badOperand ∧
    tokenize (some ['+', '+', '1']) = badOperand ∧ tokenize (some ['@', 'R', '1']) = badOperand ∧
    tokenize (some ['P', 'C']) = badOperand ∧ tokenize (some ['a', 'c', 'c']) = badOperand ∧
    tokenize (some ['1', '.', '5']) = badOperand ∧ tokenize (some [' ', '5']) = badOperand ∧
    tokenize (some ['5', '(', 'R', '1']) = badOperand ∧ tokenize (some ['(', 'R', '1', ')']) = badOperand ∧
    tokenize (some ['#', '5', '(', 'R', '1', ')']) = badOperand ∧ tokenize (some ['x', '(', 'R', '1', ')']) = badOperand := by
  decide
/-- V11 and V52: `MULTIPLY #2` and `halt` are unknown; R88: the text of `LOAD -20(R2)`. -/
theorem test_assemble :
    assemble ['M', 'U', 'L', 'T', 'I', 'P', 'L', 'Y'] (some ['#', '2']) = .unknown 15 ⟨.imm, .acc, 2⟩ ∧
    assemble ['h', 'a', 'l', 't'] none = .unknown 15 ⟨.none, .acc, 0⟩ ∧
    assemble ['J', 'Z'] (some ['4']) = .known (.jz ⟨.dir, .acc, 4⟩) ∧
    disassemble (.known (.load ⟨.idx, .r2, -20⟩)) =
      some (['L', 'O', 'A', 'D'], some ['-', '2', '0', '(', 'R', '2', ')']) := by
  decide

/-! ### One step of each instruction -/

/-- V3 (indirect) and V4 (relative at PC = 3 reads cell 5). -/
theorem test_load_value :
    (after (exec (.load ⟨.ind, .acc, 41⟩) (at_ 0 0 0 0 [(1, 7), (41, 1)]))).map (fun t => (t.acc, t.pc)) = some (7, 1) ∧
    (after (exec (.load ⟨.rel, .acc, 2⟩) (at_ 3 0 0 0 [(5, 99), (6, 1)]))).map (fun t => (t.acc, t.pc)) = some (99, 4) := by
  decide
/-- V20: the second read's address is reported; V62: no operand. -/
theorem test_load_fault :
    (after (exec (.load ⟨.ind, .acc, 0⟩) (at_ 2 100 0 0 [(0, 100)]))).map (fun t => (t.status, t.pc, t.err)) =
      some (.faulted, 2, some ⟨.outOfRangeAddress, 2, some (.known (.load ⟨.ind, .acc, 0⟩)), some 100⟩) ∧
    (after (exec (.load ⟨.none, .acc, 0⟩) (at_ 0 0 0 0 []))).map (fun t => t.err) =
      some (some ⟨.malformedOperand, 0, some (.known (.load ⟨.none, .acc, 0⟩)), none⟩) := by
  decide
/-- P3 step 4 (`STORE 30(R2)` with R2 = 15) and V18's boundary cell 99. -/
theorem test_store_cell :
    (after (exec (.store ⟨.idx, .r2, 30⟩) (at_ 4 15 0 15 [(8, 25)]))).map (fun t => (t.mem.cells, t.pc)) =
      some ([(8, 25), (45, 15)], 5) ∧
    (after (exec (.store ⟨.dir, .acc, 99⟩) (at_ 1 1 0 0 []))).map (fun t => t.mem.cells) = some [(99, 1)] := by
  decide
/-- V18 (address 100) and V21 (read-only mode). -/
theorem test_store_fault :
    (after (exec (.store ⟨.dir, .acc, 100⟩) (at_ 1 1 0 0 []))).map (fun t => (t.mem.cells, t.err)) =
      some ([], some ⟨.outOfRangeAddress, 1, some (.known (.store ⟨.dir, .acc, 100⟩)), some 100⟩) ∧
    (after (exec (.store ⟨.ind, .acc, 3⟩) (at_ 0 0 0 0 []))).map (fun t => t.err) =
      some (some ⟨.invalidDestination, 0, some (.known (.store ⟨.ind, .acc, 3⟩)), none⟩) := by
  decide
/-- V27's second step (no wrap) and V24 (`ADD ACC` doubles). -/
theorem test_add :
    (after (exec (.add ⟨.imm, .acc, 4194303⟩) (at_ 1 4194303 0 0 []))).map (fun t => (t.acc, t.pc)) = some (8388606, 2) ∧
    (after (exec (.add ⟨.reg, .acc, 0⟩) (at_ 1 6 0 0 []))).map (fun t => t.acc) = some 12 := by
  decide
/-- V10 (10 - 4) and V28 (-12 - (-2)). -/
theorem test_sub :
    (after (exec (.sub ⟨.imm, .acc, 4⟩) (at_ 1 10 0 0 []))).map (fun t => (t.acc, t.pc)) = some (6, 2) ∧
    (after (exec (.sub ⟨.imm, .acc, -2⟩) (at_ 1 (-12) 0 0 []))).map (fun t => t.acc) = some (-10) := by
  decide
/-- 43_output.md's example, and V30's faulting OUTPUT. -/
theorem test_output :
    outputRecord ⟨.dir, .acc, 20⟩ (at_ 15 15 0 15 [(20, 15)]) = some ⟨some ⟨.dir, .acc, 20⟩, 15, 0, 15, some 15⟩ ∧
    (after (exec (.output ⟨.dir, .acc, 20⟩) (at_ 15 15 0 15 [(20, 15)]))).map (fun t => t.pc) = some 16 ∧
    outputRecord ⟨.dir, .acc, 200⟩ (at_ 3 3 0 0 []) = none := by
  decide
/-- V31 (bare OUTPUT) and V58 (stray payload). -/
theorem test_output_bare :
    outputRecord ⟨.none, .acc, 0⟩ (at_ 0 1 2 3 []) = some ⟨none, 1, 2, 3, none⟩ ∧
    (after (exec (.output ⟨.none, .acc, 2⟩) (at_ 0 0 0 0 []))).map (fun t => t.err.map (fun r => r.kind)) =
      some (some .malformedOperand) := by
  decide
/-- V8 (`JMP 7` does not read memory) and V33 (negative target). -/
theorem test_jmp :
    (after (exec (.jmp ⟨.dir, .acc, 7⟩) (at_ 0 123 0 0 [(7, 3)]))).map (fun t => (t.pc, t.acc)) = some (7, 123) ∧
    (after (exec (.jmp ⟨.dir, .acc, -1⟩) (at_ 0 0 0 0 []))).map (fun t => (t.pc, t.err.map (fun r => r.info))) =
      some (0, some (some (-1))) := by
  decide
/-- 44_control_transfer.md's example at PC = 1, and V35 (a malformed JZ faults though ACC is not 0). -/
theorem test_jz :
    (after (exec (.jz ⟨.dir, .acc, 4⟩) (at_ 1 0 0 0 []))).map (fun t => t.pc) = some 4 ∧
    (after (exec (.jz ⟨.dir, .acc, 4⟩) (at_ 1 9 0 0 []))).map (fun t => t.pc) = some 2 ∧
    (after (exec (.jz ⟨.imm, .acc, 4⟩) (at_ 1 1 0 0 []))).map (fun t => t.err.map (fun r => r.kind)) =
      some (some .malformedOperand) := by
  decide
/-- 45_halt.md's example, and V61 (every operand bit set). -/
theorem test_halt :
    (after (exec (.halt ⟨.none, .acc, 0⟩) (at_ 4 8 0 0 []))).map (fun t => (t.status, t.pc, t.acc)) = some (.halted, 5, 8) ∧
    (after (exec (.halt ⟨.bad, .other, -1⟩) (at_ 0 0 0 0 []))).map (fun t => (t.status, t.pc, t.err)) = some (.halted, 1, none) := by
  decide

/-! ### The loop -/

/-- V59 on a fresh machine: UnknownOpcode(9) at 0 with STEP = 0. -/
theorem test_step_unknown :
    (after (step (State.reset.withFetchWord 32 0x00000BF9))).map (fun t => (t.status, t.step, t.err)) =
      some (.faulted, 0, some ⟨.unknownOpcode, 0, some (.unknown 9 ⟨.bad, .other, 5⟩), some 9⟩) := by
  decide
/-- V8 on a fresh machine: after the step PC = 7 and STEP = 1. -/
theorem test_step_jmp :
    (after (step (State.reset.withFetchWord 32 0x00000E65))).map (fun t => (t.status, t.pc, t.step)) = some (.running, 7, 1) := by
  decide
/-- V45 and V46: the last allowed step may halt, and exhaustion is tested before the ceiling. -/
theorem test_loop_end :
    (runProgram 1 { State.reset with prog := [.known (.halt ⟨.none, .acc, 0⟩)] }).1.status = .halted ∧
    (runProgram 1 { State.reset with prog := [.known (.load ⟨.imm, .acc, 1⟩)] }).1.status = .halted ∧
    (runProgram 1 { State.reset with prog := [.known (.jmp ⟨.dir, .acc, 0⟩)] }).1.err =
      some ⟨.stepLimitExceeded, 0, none, none⟩ := by
  decide
/-- V47: run before any load. -/
theorem test_run_empty :
    (runProgram 1000 State.reset).1.err = some ⟨.emptyProgram, 0, none, none⟩ ∧ (runProgram 1000 State.reset).2 = [] := by
  decide
/-- V11 as text, `LOAD #7`, `MULTIPLY #2`, `HALT`. -/
def textV11 : List (Text × Option Text) :=
  [(['L', 'O', 'A', 'D'], some ['#', '7']), (['M', 'U', 'L', 'T', 'I', 'P', 'L', 'Y'], some ['#', '2']), (['H', 'A', 'L', 'T'], none)]
/-- V11: the run faults at index 1 with ACC = 7 and STEP = 1, and the host is told the mnemonic `MULTIPLY`. -/
theorem test_offending_mnemonic :
    (((hostLoadText textV11 State.reset).toOption.map fun s => (runProgram 9 s).1).map fun t =>
      (t.acc, t.pc, t.step, t.err.bind (offendingMnemonic textV11))) =
      some (7, 1, 1, some ['M', 'U', 'L', 'T', 'I', 'P', 'L', 'Y']) := by
  decide
/-- 43_output.md R140: the record of `OUTPUT 007` names the token `007`, where that of `OUTPUT` names none; both follow a LOAD. -/
def textOutputs : List (Text × Option Text) :=
  [(['L', 'O', 'A', 'D'], some ['#', '7']), (['O', 'U', 'T', 'P', 'U', 'T'], some ['0', '0', '7']), (['O', 'U', 'T', 'P', 'U', 'T'], none)]
theorem test_output_token :
    textOutputStream textOutputs (runProgram 9 { State.reset with prog := textProgram textOutputs }).2 =
      [⟨some ['0', '0', '7'], 7, 0, 0, some 0⟩, ⟨none, 7, 0, 0, none⟩] := by
  decide
/-- 48_host_interface.md R180: a size or ceiling that is not positive is refused. -/
theorem test_construct : construct 0 1000 = none ∧ construct 100 0 = none ∧ (construct 1 5).map Prod.fst = some 5 := by
  decide

/-! ### Witnesses: the hypotheses of each statement can be met -/

/-- PC = 3, R1 = 3, R2 = -2 on 100 cells. -/
def sample : State :=
  at_ 3 5 3 (-2) [(0, 100), (1, 7), (3, 42), (41, 1), (99, -8)]

/-- `sample` with a program whose index 3 holds `d`. -/
def loaded (d : Decoded) : State :=
  { sample with prog := [d, d, d, d] }

theorem zero_ne_ceiling : (0 : Nat) ≠ Config.maxSteps := (Nat.succ_ne_zero Config.maxStepsLessOne).symm

theorem sample_invUnder (c : Nat) : sample.InvUnder c := ⟨by decide, by decide, Nat.zero_le c⟩

theorem witness_DecodeOfEncodeGivesBack : 0 < 23 ∧ (Decoded.known (.load ⟨.imm, .acc, -4194304⟩)).wfAt 23 = true := by decide
theorem witness_EncodeOfDecodeGivesBack : 0 < 1 := by decide
theorem witness_PayloadOutOfRangeHasNoWord :
    (-4194305 : Int) < -(2 : Int) ^ (23 - 1) ∧ (2 : Int) ^ (23 - 1) ≤ 4194304 := by decide
theorem witness_LowBitsSelectInstruction : (7#32).toNat % 16 < 8 ∧ 8 ≤ (8#32).toNat % 16 := by decide
theorem witness_CanonicalTextRoundTrip : (Instr.load ⟨.idx, .r2, -20⟩).operand.hasText = true := by decide
theorem witness_MnemonicsAreAClosedSet :
    (Instr.jz ⟨.dir, .acc, 4⟩).operand = tokenize (some ['4']) ∧ ['J', 'Z'] = mnemonic (.jz ⟨.dir, .acc, 4⟩) ∧
    ∀ i : Instr, ['N', 'O', 'P'] ≠ mnemonic i := by
  refine ⟨by decide, rfl, fun i => ?_⟩
  cases i <;> simp [mnemonic]
theorem witness_ConstructionValues : ((1 : Int) ≤ 1 ∧ (1 : Int) ≤ 1) ∧ ¬ ((1 : Int) ≤ 0 ∧ (1 : Int) ≤ 1) := by decide
theorem witness_StepKeepsInv : (loaded (.known (.halt ⟨.none, .acc, 0⟩))).Inv ∧
    ∃ t, step (loaded (.known (.halt ⟨.none, .acc, 0⟩))) = .next t :=
  ⟨sample_invUnder _, _, rfl⟩
theorem witness_HostTransactionsKeepInv (c : Nat) : (State.constructed 1).InvUnder c ∧
    (∃ t, hostLoad [] (State.constructed 1) = .ok t) ∧ (∃ t rs, hostRun c (State.constructed 1) = .ok (t, rs)) ∧
    (∃ t, hostWriteReg .r1 5 (State.constructed 1) = .ok t) ∧ (∃ t, hostWritePc 0 (State.constructed 1) = .ok t) ∧
    (∃ t, hostWriteMem 0 5 (State.constructed 1) = .ok t) :=
  ⟨⟨by decide, by decide, Nat.zero_le c⟩, ⟨_, rfl⟩, ⟨_, _, rfl⟩, ⟨_, rfl⟩, ⟨_, rfl⟩, ⟨_, rfl⟩⟩
/-- MemReadIsRangeChecked, MemWriteChangesOneCell, DirectReadIsTheCell, DirectWriteIsTheCell; IndirectReadFollowsThePointer, where
cell 41 points at cell 1 and cell 0 points outside. -/
theorem witness_memory_ranges :
    sample.mem.inRange 0 ∧ sample.mem.inRange 99 ∧ ¬ sample.mem.inRange (-1) ∧ ¬ sample.mem.inRange 100 ∧
    memRead 41 sample = .ok 1 ∧ memRead 0 sample = .ok 100 := by
  decide
/-- RelativeReadUsesTheOwnIndex and IndexedReadAddsTheRegister at the ends of memory: PC = R1 = 3, R2 = -2. -/
theorem witness_address_sums :
    sample.mem.inRange (sample.pc + 96) ∧ ¬ sample.mem.inRange (sample.pc + 97) ∧ sample.mem.inRange (sample.pc + -3) ∧
    ¬ sample.mem.inRange (97 + sample.r1) ∧ ¬ sample.mem.inRange (1 + sample.r2) ∧ sample.mem.inRange (2 + sample.r2) := by
  decide
/-- LoadResult, AddSubResult, OutputResult: an operand of every mode denotes a value, at the ends of memory where the mode has an address. -/
theorem witness_Denotes :
    Denotes sample ⟨.imm, .acc, -7⟩ (-7) ∧ Denotes sample ⟨.ind, .acc, 41⟩ 7 ∧ Denotes sample ⟨.rel, .acc, 96⟩ (-8) ∧
    Denotes sample ⟨.idx, .r1, 0⟩ 42 ∧ Denotes sample ⟨.idx, .r2, 2⟩ 100 ∧ Denotes sample ⟨.reg, .r2, 0⟩ (-2) ∧
    Denotes sample ⟨.dir, .acc, 99⟩ (-8) :=
  ⟨.imm _, .ind 41 (by decide) (by decide), .rel 96 (by decide), .idxR1 0 (by decide), .idxR2 2 (by decide), .regR2,
    .dir 99 (by decide)⟩
/-- LoadResult, AddSubResult, OutputResult: every case of the read path's errors occurs. -/
theorem witness_ReadFault :
    ReadFault sample ⟨.idx, .other, 0⟩ ⟨.unsupportedAddressingMode, none⟩ ∧
    ReadFault sample ⟨.none, .acc, 0⟩ ⟨.malformedOperand, none⟩ ∧ ReadFault sample ⟨.ind, .acc, 100⟩ ⟨.outOfRangeAddress, some 100⟩ ∧
    ReadFault sample ⟨.ind, .acc, 0⟩ ⟨.outOfRangeAddress, some 100⟩ ∧ ReadFault sample ⟨.rel, .acc, 97⟩ ⟨.outOfRangeAddress, some 100⟩ ∧
    ReadFault sample ⟨.idx, .r1, -4⟩ ⟨.outOfRangeAddress, some (-1)⟩ ∧ ReadFault sample ⟨.idx, .r2, 1⟩ ⟨.outOfRangeAddress, some (-1)⟩ ∧
    ReadFault sample ⟨.dir, .acc, -1⟩ ⟨.outOfRangeAddress, some (-1)⟩ :=
  ⟨.static _ _ (.badIndex _ _ (.inr rfl)), .absent, .indFirst 100 (by decide), .indSecond 0 (by decide) (by decide),
    .rel 97 (by decide), .idxR1 (-4) (by decide), .idxR2 1 (by decide), .dir (-1) (by decide)⟩
theorem witness_StoreResult :
    DestReg ⟨.reg, .r1, 0⟩ .r1 ∧ DestCell sample ⟨.idx, .r1, 96⟩ (96 + sample.r1) ∧ sample.mem.inRange (96 + sample.r1) ∧
    WriteFault sample ⟨.rel, .acc, 0⟩ ⟨.invalidDestination, none⟩ ∧ WriteFault sample ⟨.dir, .acc, 100⟩ ⟨.outOfRangeAddress, some 100⟩ :=
  ⟨.r1, .idxR1 96, by decide, .readOnly _ _ (.inr (.inr rfl)), .cell _ 100 (.dir 100) (by decide)⟩
theorem witness_StoreMemoryFrame :
    (∃ t, exec (.store ⟨.dir, .acc, 0⟩) sample = .next t) ∧ DestCell sample ⟨.dir, .acc, 0⟩ 0 ∧ sample.mem.inRange 0 ∧
    (∃ t, exec (.store ⟨.reg, .r1, 0⟩) sample = .next t) ∧ ¬ ∃ a, DestCell sample ⟨.reg, .r1, 0⟩ a ∧ sample.mem.inRange a :=
  ⟨⟨_, rfl⟩, .dir 0, by decide, ⟨_, rfl⟩, fun ⟨_, h, _⟩ => by cases h⟩
theorem witness_AddThenSubRestoresAcc :
    Denotes sample ⟨.dir, .acc, 1⟩ 7 ∧ exec (.add ⟨.dir, .acc, 1⟩) sample = .next { sample with acc := 12, pc := 4 } ∧
    Denotes { sample with acc := 12, pc := 4 } ⟨.imm, .acc, 7⟩ 7 :=
  ⟨.dir 1 (by decide), rfl, .imm 7⟩
theorem witness_OutputResult :
    (⟨.dir, .acc, 100⟩ : Operand) ≠ ⟨.none, .acc, 0⟩ ∧ ReadFault sample ⟨.dir, .acc, 100⟩ ⟨.outOfRangeAddress, some 100⟩ :=
  ⟨by decide, .dir 100 (by decide)⟩
/-- JmpResult, JzResult. -/
theorem witness_TargetFault :
    TargetFault ⟨.dir, .acc, -1⟩ ⟨.outOfRangeAddress, some (-1)⟩ ∧ TargetFault ⟨.imm, .acc, 4⟩ ⟨.malformedOperand, none⟩ ∧
    TargetFault ⟨.idx, .acc, 4⟩ ⟨.unsupportedAddressingMode, none⟩ :=
  ⟨.negative (-1) (by decide), .notBare _ (by decide) (by decide), .static _ _ (.badIndex _ _ (.inl rfl))⟩
/-- RegisterDirectWriteIsTheOnlyWayToR1R2 and WhatEachInstructionMayWrite: an instruction changes R1, R2, ACC, memory, STATUS. -/
theorem witness_WhatEachInstructionMayWrite :
    (∃ t, exec (.store ⟨.reg, .r1, 0⟩) sample = .next t ∧ t.r1 ≠ sample.r1) ∧
    (∃ t, exec (.store ⟨.reg, .r2, 0⟩) sample = .next t ∧ t.r2 ≠ sample.r2) ∧
    (∃ t, exec (.load ⟨.imm, .acc, 0⟩) sample = .next t ∧ t.acc ≠ sample.acc) ∧
    (∃ t, exec (.store ⟨.dir, .acc, 0⟩) sample = .next t ∧ t.mem ≠ sample.mem) ∧
    (∃ t, exec (.halt ⟨.none, .acc, 0⟩) sample = .next t ∧ t.status ≠ sample.status) ∧
    (∃ t, exec (.jmp ⟨.dir, .acc, -1⟩) sample = .next t ∧ t.err ≠ sample.err) :=
  ⟨⟨_, rfl, by decide⟩, ⟨_, rfl, by decide⟩, ⟨_, rfl, by decide⟩, ⟨_, rfl, by decide⟩, ⟨_, rfl, by decide⟩, ⟨_, rfl, by decide⟩⟩
/-- `loaded d` fetches `d` below MAX_STEPS, and below any ceiling of at least 1. -/
theorem witness_fetch (d : Decoded) : (loaded d).status = .running ∧ (loaded d).prog[(loaded d).pc]? = some d ∧
    (loaded d).step ≠ Config.maxSteps ∧ (loaded d).step ≠ 1 ∧ (loaded d).prog ≠ [] ∧ (loaded d).pc < (loaded d).prog.length :=
  ⟨rfl, rfl, zero_ne_ceiling, Nat.zero_ne_one, List.cons_ne_nil _ _, by show 3 < 4; decide⟩

/-- With `witness_fetch`: StepRunsTheFetchedInstruction, ProgramStoreIsNeverWritten, PcUpdatePolicy, StatusTransitions,
StepCountsCompletedSteps: the instruction and the step of a fetched JMP and JZ, and of a HALT, have next states that are not faulted. -/
theorem witness_StepRunsTheFetchedInstruction :
    (∃ t, exec (.jmp ⟨.dir, .acc, 7⟩) (loaded (.known (.jmp ⟨.dir, .acc, 7⟩))) = .next t ∧ t.status ≠ .faulted) ∧
    (∃ t, step (loaded (.known (.jmp ⟨.dir, .acc, 7⟩))) = .next t ∧ t.status ≠ .faulted) ∧
    (∃ t, step (loaded (.known (.jz ⟨.dir, .acc, 7⟩))) = .next t ∧ t.status ≠ .faulted) ∧
    (∃ t, step { loaded (.known (.jz ⟨.dir, .acc, 7⟩)) with acc := 0 } = .next t ∧ t.status ≠ .faulted) ∧
    (∃ t, step (loaded (.known (.halt ⟨.none, .acc, 0⟩))) = .next t ∧ t.status ≠ .faulted) :=
  ⟨⟨_, rfl, by decide⟩, ⟨_, rfl, by decide⟩, ⟨_, rfl, by decide⟩, ⟨_, rfl, by decide⟩, ⟨_, rfl, by decide⟩⟩
theorem witness_FetchWordRunsNext :
    decodeTableWord 32 0x7 = some (.halt ⟨.none, .acc, 0⟩) ∧ decodeTableWord 32 0x8 = none ∧
    ∃ t, exec (.halt ⟨.none, .acc, 0⟩) (State.reset.withFetchWord 32 0x7) = .next t :=
  ⟨by decide, by decide, _, rfl⟩
theorem witness_ExhaustionEndsHalted : sample.status = .running ∧ sample.prog.length ≤ sample.pc := by decide
/-- With `witness_fetch`: the ceiling 0 is reached at once. -/
theorem witness_CeilingEndsFaulted (d : Decoded) : (loaded d).step = 0 := rfl
/-- With `witness_fetch` for the first clause. -/
theorem witness_UnknownOpcodeFaults :
    ∃ t r, exec (.halt ⟨.none, .acc, 0⟩) { sample with err := some ⟨.unknownOpcode, 0, none, some 8⟩ } = .next t ∧
      t.err = some r ∧ r.kind = .unknownOpcode :=
  ⟨_, _, rfl, rfl, rfl⟩
theorem witness_FaultsArePrecise :
    ∃ t, step (loaded (.known (.load ⟨.none, .acc, 0⟩))) = .next t ∧ t.status = .faulted :=
  ⟨_, rfl, by decide⟩
/-- NoTransitionUnlessRunning, LoadReplacesOnlyTheProgram. -/
theorem witness_NoTransitionUnlessRunning : State.reset.status ≠ .running ∧ sample.status = .running := by decide
/-- With `witness_fetch` and the ceiling 1: a completed OUTPUT, a completed LOAD, a fault. -/
theorem witness_RecordsOfAStep :
    (∃ t, dispatch (.known (.output ⟨.none, .acc, 0⟩)) (loaded (.known (.output ⟨.none, .acc, 0⟩))) = .next t ∧ t.status ≠ .faulted) ∧
    (∃ t, dispatch (.known (.load ⟨.imm, .acc, 0⟩)) (loaded (.known (.load ⟨.imm, .acc, 0⟩))) = .next t ∧ t.status ≠ .faulted) ∧
    (∃ t, dispatch (.unknown 8 ⟨.none, .acc, 0⟩) (loaded (.unknown 8 ⟨.none, .acc, 0⟩)) = .next t ∧ t.status = .faulted) :=
  ⟨⟨_, rfl, by decide⟩, ⟨_, rfl, by decide⟩, ⟨_, rfl, rfl⟩⟩
/-- EveryRunEnds, TraceNumbersTheSteps, RunDependsOnRegistersMemoryProgram: two states that differ in PC, STEP and STATUS. -/
theorem witness_RunDependsOnRegistersMemoryProgram :
    ∃ s t : State, s.prog ≠ [] ∧ t.prog = s.prog ∧ t.acc = s.acc ∧ t.r1 = s.r1 ∧ t.r2 = s.r2 ∧ t.mem = s.mem ∧
      t.pc ≠ s.pc ∧ t.step ≠ s.step ∧ t.status ≠ s.status :=
  ⟨loaded (.known (.halt ⟨.none, .acc, 0⟩)),
    { loaded (.known (.halt ⟨.none, .acc, 0⟩)) with pc := 9, step := 8, status := .halted }, by decide⟩
theorem witness_EmptyProgramIsRaisedByRunEntryOnly :
    State.reset.status ≠ .running ∧ State.reset.prog = [] ∧
    ∃ t r, step { sample with err := some ⟨.emptyProgram, 0, none, none⟩ } = .next t ∧ t.err = some r ∧ r.kind = .emptyProgram :=
  ⟨by decide, rfl, _, _, rfl, rfl, rfl⟩
theorem witness_HostMemoryAccess :
    State.reset.status ≠ .running ∧ State.reset.mem.inRange 99 ∧ ¬ State.reset.mem.inRange 100 ∧ sample.status = .running := by
  decide
/-- OutputRecordCarriesTheToken, TextOutputStreamTokenizesToTheOutputStream: a token that denotes a value, none, a token that faults. -/
theorem witness_OutputRecordCarriesTheToken :
    (∀ tok, textProgram [(['O', 'U', 'T', 'P', 'U', 'T'], tok)] = [.known (.output (tokenize tok))]) ∧
    (['O', 'U', 'T', 'P', 'U', 'T'] : Text) = mnemonic (.output ⟨.none, .acc, 0⟩) ∧
    (State.reset.withFetchWord 32 0x4).status = .running ∧ (State.reset.withFetchWord 32 0x4).step ≠ 1 ∧
    (State.reset.withFetchWord 32 0x4).pc = 0 ∧
    (State.reset.withFetchWord 32 0x4).prog = textProgram [(['O', 'U', 'T', 'P', 'U', 'T'], none)] ∧
    (State.reset.withFetchWord 32 0xC64).prog = textProgram [(['O', 'U', 'T', 'P', 'U', 'T'], some ['0', '0', '6'])] ∧
    Denotes (State.reset.withFetchWord 32 0xC64) (tokenize (some ['0', '0', '6'])) 0 ∧
    (State.reset.withFetchWord 32 0x74).prog = textProgram [(['O', 'U', 'T', 'P', 'U', 'T'], some ['x'])] ∧
    ReadFault (State.reset.withFetchWord 32 0x74) (tokenize (some ['x'])) ⟨.malformedOperand, none⟩ :=
  ⟨fun _ => rfl, rfl, rfl, by decide, rfl, by decide, by decide, .dir 6 (by decide), by decide, .static _ _ (.badToken _ _)⟩

end Sys2Proof.Tests
end

section
/-! PROOFS. Memory access (20_memory.md R54, R55): the range check as equations, and what a read sees after a write. -/

namespace Sys2Proof.Machine

/-- Outside the array is below 0 or not below MEM_SIZE: the two failing sides of R54. -/
theorem Memory.not_inRange_iff {m : Memory} {a : Int} : ¬ m.inRange a ↔ a < 0 ∨ (m.size : Int) ≤ a := by
  rw [not_and_or, not_le, not_lt]

theorem memRead_of_inRange {a : Int} {s : State} (h : s.mem.inRange a) : memRead a s = .ok (s.mem.get a.toNat) :=
  if_pos h

theorem memRead_of_not_inRange {a : Int} {s : State} (h : ¬ s.mem.inRange a) : memRead a s = .error (outOfRange a) :=
  if_neg h

theorem memWrite_of_inRange {a : Int} {s : State} (h : s.mem.inRange a) (v : Value) :
    memWrite a v s = .ok (s.setMem (s.mem.put a.toNat v)) :=
  if_pos h

theorem memWrite_of_not_inRange {a : Int} {s : State} (h : ¬ s.mem.inRange a) (v : Value) :
    memWrite a v s = .error (outOfRange a) :=
  if_neg h

/-- The written cell reads as written: cells have no range, so this is for any integer. -/
theorem memRead_setMem_put_same {a : Int} {s : State} (h : s.mem.inRange a) (v : Value) :
    memRead a (s.setMem (s.mem.put a.toNat v)) = .ok v := by
  have hin : (s.setMem (s.mem.put a.toNat v)).mem.inRange a := h
  rw [memRead_of_inRange hin, State.setMem_mem, Memory.get_put, if_pos rfl]

/-- Every other address reads, or raises, as before. Both addresses have to be non-negative for `toNat` to tell the cells
apart; a `b` outside the array raises on both sides, as a write keeps the size. -/
theorem memRead_setMem_put_of_ne {a b : Int} {s : State} (h : s.mem.inRange a) (hne : b ≠ a) (v : Value) :
    memRead b (s.setMem (s.mem.put a.toNat v)) = memRead b s := by
  by_cases hb : s.mem.inRange b
  · have hin : (s.setMem (s.mem.put a.toNat v)).mem.inRange b := hb
    have hcell : b.toNat ≠ a.toNat := by omega
    rw [memRead_of_inRange hin, memRead_of_inRange hb, State.setMem_mem, Memory.get_put, if_neg hcell]
  · have hout : ¬ (s.setMem (s.mem.put a.toNat v)).mem.inRange b := hb
    rw [memRead_of_not_inRange hout, memRead_of_not_inRange hb]

/-- Settles O14: the two branches of the range check, on the exact integer. -/
theorem memReadIsRangeChecked : Obligations.MemReadIsRangeChecked := fun _ _ =>
  ⟨fun hout => memRead_of_not_inRange (Memory.not_inRange_iff.2 hout), memRead_of_inRange⟩

/-- Settles O15: the next state of a write in range is `setMem` of `put`, whose reads are the two lemmas above. -/
theorem memWriteChangesOneCell : Obligations.MemWriteChangesOneCell := by
  intro a v s
  constructor
  · intro hout
    exact memWrite_of_not_inRange (Memory.not_inRange_iff.2 hout) v
  · intro hin
    exact ⟨s.setMem (s.mem.put a.toNat v), memWrite_of_inRange hin v, memRead_setMem_put_same hin v,
      fun b hb => memRead_setMem_put_of_ne hin hb v, rfl⟩

end Sys2Proof.Machine
end

section
/-! PROOFS. The resolver's static checks (30_encoding.md R77): what passes them, and what the two paths answer after them
(40_addressing_resolver.md R101, R108, R115). -/

namespace Sys2Proof.Machine

/-- The six tests pass exactly the well-formed fields. -/
theorem operandCheck_eq_none_iff (o : Operand) : operandCheck o = none ↔ o.hasText = true := by
  obtain ⟨m, r, n⟩ := o
  cases m with
  | idx => cases r <;> simp [operandCheck, Operand.hasText, indexReg]
  | reg => by_cases hr : r = .other <;> simp [operandCheck, Operand.hasText, hr]
  | none => by_cases hr : r = .acc <;> simp [operandCheck, Operand.hasText, hr]
  | imm | ind | rel | dir | bad => simp [operandCheck, Operand.hasText]

/-- An indexed operand of ACC or of another register stops at the second test, whatever its payload is (R113). -/
theorem operandCheck_idx_of_indexReg_none {r : RegSel} (h : indexReg r = none) (n : Int) :
    operandCheck ⟨.idx, r, n⟩ = some .unsupportedAddressingMode := by
  simp [operandCheck, h]

/-- A static error is the answer of the read path in every state: no register and no cell is consulted. -/
theorem resolveRead_of_operandCheck_some {o : Operand} {k : ErrKind} (h : operandCheck o = some k) (s : State) :
    resolveRead o s = .error (bare k) := by
  simp only [resolveRead, h]

theorem resolveRead_of_hasText {o : Operand} (h : o.hasText = true) (s : State) : resolveRead o s = readMode o s := by
  simp only [resolveRead, (operandCheck_eq_none_iff o).2 h]

theorem resolveWrite_of_hasText {o : Operand} (h : o.hasText = true) (v : Value) (s : State) :
    resolveWrite o v s = writeMode o v s := by
  simp only [resolveWrite, (operandCheck_eq_none_iff o).2 h]

/-- The write path returns only for well-formed fields. -/
theorem hasText_of_resolveWrite_ok {o : Operand} {v : Value} {s t : State} (h : resolveWrite o v s = .ok t) :
    o.hasText = true := by
  rw [← operandCheck_eq_none_iff]
  cases hc : operandCheck o with
  | none => rfl
  | some k => simp [resolveWrite, hc] at h

end Sys2Proof.Machine
end

section
/-! PROOFS. The read path mode by mode (40_addressing_resolver.md R102 to R107), for well-formed fields. -/

namespace Sys2Proof.Machine

theorem resolveRead_imm (n : Int) (s : State) : resolveRead ⟨.imm, .acc, n⟩ s = .ok n :=
  resolveRead_of_hasText rfl s

theorem resolveRead_rel (n : Int) (s : State) : resolveRead ⟨.rel, .acc, n⟩ s = memRead (s.pc + n) s :=
  resolveRead_of_hasText rfl s

theorem resolveRead_idx_r1 (n : Int) (s : State) : resolveRead ⟨.idx, .r1, n⟩ s = memRead (n + s.r1) s :=
  resolveRead_of_hasText rfl s

theorem resolveRead_idx_r2 (n : Int) (s : State) : resolveRead ⟨.idx, .r2, n⟩ s = memRead (n + s.r2) s :=
  resolveRead_of_hasText rfl s

theorem resolveRead_dir (n : Int) (s : State) : resolveRead ⟨.dir, .acc, n⟩ s = memRead n s :=
  resolveRead_of_hasText rfl s

/-- Every operand that names a register as a destination reads as that register. -/
theorem resolveRead_of_destReg {o : Operand} {r : Reg} (h : DestReg o r) (s : State) :
    resolveRead o s = .ok (regRead r s) := by
  cases h <;> exact resolveRead_of_hasText rfl s

/-- ADD of an operand that reads as `v`: the exact sum, and PC advances. -/
theorem exec_add_of_resolveRead {o : Operand} {s : State} {v : Value} (h : resolveRead o s = .ok v) :
    exec (.add o) s = .next (s.setAcc (s.acc + v)).advance := by
  simp only [exec, execAdd, addHandler, h, endHandler]

/-- SUB of an operand that reads as `v`: accumulator minus operand, and PC advances. -/
theorem exec_sub_of_resolveRead {o : Operand} {s : State} {v : Value} (h : resolveRead o s = .ok v) :
    exec (.sub o) s = .next (s.setAcc (s.acc - v)).advance := by
  simp only [exec, execSub, subHandler, h, endHandler]

/-- Settles O17: the immediate mode answers its payload. -/
theorem immediateReadIsTheLiteral : Obligations.ImmediateReadIsTheLiteral :=
  resolveRead_imm

/-- Settles O19: one MemRead at PC + n, PC being the executing instruction's own index. -/
theorem relativeReadUsesTheOwnIndex : Obligations.RelativeReadUsesTheOwnIndex := by
  intro n s
  rw [resolveRead_rel]
  exact ⟨memRead_of_inRange, memRead_of_not_inRange⟩

/-- Settles O20: one MemRead at the exact sum for R1 and R2; the second static test for ACC and any other register. -/
theorem indexedReadAddsTheRegister : Obligations.IndexedReadAddsTheRegister := by
  intro n s
  rw [resolveRead_idx_r1, resolveRead_idx_r2]
  refine ⟨rfl, rfl, memRead_of_not_inRange, memRead_of_not_inRange, fun r hr => ?_⟩
  have hnone : indexReg r = none := by rcases hr with rfl | rfl <;> rfl
  exact resolveRead_of_operandCheck_some (operandCheck_idx_of_indexReg_none hnone n) s

/-- Settles O21: the register's value is the operand, so ADD ACC gives ACC + ACC and SUB ACC gives ACC - ACC. -/
theorem registerDirectReadIsTheRegister : Obligations.RegisterDirectReadIsTheRegister := by
  refine ⟨fun s => ?_, by decide⟩
  have hacc : resolveRead ⟨.reg, .acc, 0⟩ s = .ok s.acc := resolveRead_of_destReg .acc s
  refine ⟨hacc, resolveRead_of_destReg .r1 s, resolveRead_of_destReg .r2 s, ?_, ?_⟩
  · rw [exec_add_of_resolveRead hacc, ← two_mul]
    rfl
  · rw [exec_sub_of_resolveRead hacc, sub_self]
    rfl

/-- Settles O22: one MemRead at the payload; a negative payload is out of range as every other outside address. -/
theorem directReadIsTheCell : Obligations.DirectReadIsTheCell := by
  intro n s
  rw [resolveRead_dir]
  exact ⟨memRead_of_inRange, memRead_of_not_inRange⟩

end Sys2Proof.Machine
end

section
/-! PROOFS. The write path to a register and to a cell (40_addressing_resolver.md R110, R111), STORE above it, and which
instruction can change R1 or R2. -/

namespace Sys2Proof.Machine

/-- A register destination: that register receives the value and nothing else changes. -/
theorem resolveWrite_of_destReg {o : Operand} {r : Reg} (h : DestReg o r) (v : Value) (s : State) :
    resolveWrite o v s = .ok (regWrite r v s) := by
  cases h <;> exact resolveWrite_of_hasText rfl v s

theorem resolveWrite_dir (n : Int) (v : Value) (s : State) : resolveWrite ⟨.dir, .acc, n⟩ v s = memWrite n v s :=
  resolveWrite_of_hasText rfl v s

theorem exec_store_of_resolveWrite {o : Operand} {s t : State} (h : resolveWrite o s.acc s = .ok t) :
    exec (.store o) s = .next t.advance := by
  simp only [exec, execStore, storeHandler, h, endHandler]

theorem exec_store_of_resolveWrite_error {o : Operand} {s : State} {e : Raise} (h : resolveWrite o s.acc s = .error e) :
    exec (.store o) s = .next (faultEntry e s.pc (some (.known (.store o))) s) := by
  simp only [exec, execStore, storeHandler, h, endHandler]

@[simp] theorem regRead_setMem (q : Reg) (m : Memory) (s : State) : regRead q (s.setMem m) = regRead q s := by
  cases q <;> rfl

@[simp] theorem regRead_setPc (q : Reg) (n : Nat) (s : State) : regRead q (s.setPc n) = regRead q s := by
  cases q <;> rfl

@[simp] theorem regRead_setStatus (q : Reg) (x : Status) (s : State) : regRead q (s.setStatus x) = regRead q s := by
  cases q <;> rfl

@[simp] theorem regRead_advance (q : Reg) (s : State) : regRead q s.advance = regRead q s :=
  regRead_setPc q (s.pc + 1) s

@[simp] theorem regRead_faultEntry (q : Reg) (e : Raise) (p : Nat) (i : Option Decoded) (s : State) :
    regRead q (faultEntry e p i s) = regRead q s := by
  cases q <;> rfl

theorem regRead_setAcc_of_ne {q : Reg} (hq : q ≠ .acc) (v : Value) (s : State) :
    regRead q (s.setAcc v) = regRead q s :=
  (regRead_regWrite q .acc v s).trans (if_neg hq)

/-- Well-formed fields of mode REG name their register as a destination: the payload is 0. -/
theorem destReg_of_hasText {o : Operand} {r : Reg} (h : o.hasText = true) (hm : o.mode = .reg)
    (hr : namedReg o.reg = some r) : DestReg o r := by
  obtain ⟨m, sel, n⟩ := o
  obtain rfl : m = .reg := hm
  obtain ⟨-, rfl⟩ : sel ≠ .other ∧ n = 0 := by simpa [Operand.hasText] using h
  cases sel <;> cases hr <;> constructor

/-- The write path changes a register only where the operand names it as the destination: a cell write changes none. -/
theorem destReg_of_resolveWrite_changes {o : Operand} {v : Value} {s t : State} {q : Reg}
    (h : resolveWrite o v s = .ok t) (hne : regRead q t ≠ regRead q s) : DestReg o q := by
  rcases resolveWrite_ok h with ⟨r, hm, hr, rfl⟩ | ⟨r, _, _, _, rfl⟩ | ⟨_, _, rfl⟩
  · rw [regRead_regWrite] at hne
    obtain rfl : q = r := by
      by_contra hqr
      exact hne (if_neg hqr)
    exact destReg_of_hasText (hasText_of_resolveWrite_ok h) hm hr
  · exact absurd (regRead_setMem q _ s) hne
  · exact absurd (regRead_setMem q _ s) hne

/-- Only a STORE to an index register changes it: of the eight effects and the fault entry, the others write ACC at most. -/
theorem exec_changes_register {i : Instr} {s t : State} {q : Reg} (h : exec i s = .next t) (hq : q ≠ .acc)
    (hne : regRead q t ≠ regRead q s) : ∃ o, i = .store o ∧ DestReg o q := by
  rcases exec_cases h with ⟨e, rfl⟩ | ⟨o, v, -, -, rfl⟩ | ⟨o, u, rfl, hw, rfl⟩ | ⟨o, v, -, -, rfl⟩ | ⟨o, v, -, -, rfl⟩ |
    ⟨o, -, rfl⟩ | ⟨o, n, -, -, rfl⟩ | ⟨o, n, -, -, rfl⟩ | ⟨o, -, rfl⟩
  · simp at hne
  · simp [regRead_setAcc_of_ne hq] at hne
  · rw [regRead_advance] at hne
    exact ⟨o, rfl, destReg_of_resolveWrite_changes hw hne⟩
  · simp [regRead_setAcc_of_ne hq] at hne
  · simp [regRead_setAcc_of_ne hq] at hne
  · simp at hne
  · simp at hne
  · split at hne <;> simp at hne
  · simp at hne

/-- Settles O25: the write path for the three registers, and the only instruction that changes R1 or R2, one lemma for both. -/
theorem registerDirectWriteIsTheOnlyWayToR1R2 : Obligations.RegisterDirectWriteIsTheOnlyWayToR1R2 := by
  constructor
  · intro v s
    exact ⟨resolveWrite_of_destReg .acc v s, resolveWrite_of_destReg .r1 v s, resolveWrite_of_destReg .r2 v s,
      exec_store_of_resolveWrite (resolveWrite_of_destReg .acc s.acc s)⟩
  · intro i s t h
    constructor
    · intro hne
      obtain ⟨o, rfl, hdest⟩ := exec_changes_register (q := .r1) h (by decide) hne
      cases hdest
      rfl
    · intro hne
      obtain ⟨o, rfl, hdest⟩ := exec_changes_register (q := .r2) h (by decide) hne
      cases hdest
      rfl

/-- Settles O26: the direct write is MemWrite at the payload, so O15 gives its cell and frame; out of range STORE ends in the
fault entry, which writes STATUS and ERR only. -/
theorem directWriteIsTheCell : Obligations.DirectWriteIsTheCell := by
  intro n v s
  rw [resolveWrite_dir]
  constructor
  · exact (memWriteChangesOneCell n v s).2
  · intro hout
    have hstore : resolveWrite ⟨.dir, .acc, n⟩ s.acc s = .error (outOfRange n) :=
      (resolveWrite_dir n s.acc s).trans (memWrite_of_not_inRange hout s.acc)
    exact ⟨memWrite_of_not_inRange hout v, _, exec_store_of_resolveWrite_error hstore, rfl⟩

end Sys2Proof.Machine
end

section
/-! PROOFS. No instruction and no step writes the program store (70_reset_and_hazards.md R236). -/

namespace Sys2Proof.Machine

/-- A write of the resolver is one register or one cell of MEM, never the program store. -/
theorem resolveWrite_prog {o : Operand} {v : Value} {s t : State} (h : resolveWrite o v s = .ok t) : t.prog = s.prog := by
  rcases resolveWrite_ok h with ⟨r, _, _, rfl⟩ | ⟨r, _, _, _, rfl⟩ | ⟨_, _, rfl⟩
  · exact regWrite_prog r v s
  · exact State.setMem_prog s _
  · exact State.setMem_prog s _

/-- The fault entry and the eight effects of an instruction all keep the program store. -/
theorem exec_prog {i : Instr} {s t : State} (h : exec i s = .next t) : t.prog = s.prog := by
  rcases exec_cases h with ⟨e, rfl⟩ | ⟨o, v, -, -, rfl⟩ | ⟨o, u, -, hw, rfl⟩ | ⟨o, v, -, -, rfl⟩ | ⟨o, v, -, -, rfl⟩ |
    ⟨o, -, rfl⟩ | ⟨o, n, -, -, rfl⟩ | ⟨o, n, -, -, rfl⟩ | ⟨o, -, rfl⟩
  · exact faultEntry_prog e _ _ s
  · rw [State.advance_prog, State.setAcc_prog]
  · rw [State.advance_prog, resolveWrite_prog hw]
  · rw [State.advance_prog, State.setAcc_prog]
  · rw [State.advance_prog, State.setAcc_prog]
  · exact State.advance_prog s
  · exact State.setPc_prog s n
  · rw [apply_ite State.prog, State.setPc_prog, State.advance_prog, ite_self]
  · rw [State.advance_prog, State.setStatus_prog]

@[simp] theorem countStep_prog (s : State) : (countStep s).prog = s.prog := by
  rcases countStep_cases s with ⟨-, h⟩ | ⟨-, h⟩ <;> rw [h]
  exact State.setStep_prog s _

/-- One pass of the loop keeps the program store under every ceiling: an end by exhaustion, a fault entry, or an instruction. -/
theorem loopPass_prog {c : Nat} {s t : State} (h : loopPass c s = .next t) : t.prog = s.prog := by
  obtain ⟨-, ⟨-, rfl⟩ | ⟨d, -, -, rfl⟩ | ⟨k, o, -, -, rfl⟩ | ⟨i, u, -, -, hx, rfl⟩⟩ := loopPass_cases h
  · exact State.setStatus_prog s _
  · exact faultEntry_prog _ _ _ s
  · exact faultEntry_prog _ _ _ s
  · rw [countStep_prog, exec_prog hx]

/-- Settles O39: an instruction by its effects, a step as the pass of the loop under MAX_STEPS. -/
theorem programStoreIsNeverWritten : Obligations.ProgramStoreIsNeverWritten :=
  ⟨fun _ _ _ => exec_prog, fun _ _ => loopPass_prog⟩

end Sys2Proof.Machine
end

section
/-! PROOFS. The binary word (30_encoding.md R72 to R76, R90): each field as arithmetic on the word's value, and each number table
with its inverse. Encode and decode are inverse because their fields are. -/

namespace Sys2Proof

theorem modeField_eq {immW : Nat} (w : InstrWord immW) : modeField w = w.toNat / 16 % 8 := by
  simp [modeField, BitVec.extractLsb'_toNat, Nat.shiftRight_eq_div_pow]

theorem regField_eq {immW : Nat} (w : InstrWord immW) : regField w = w.toNat / 128 % 4 := by
  simp [regField, BitVec.extractLsb'_toNat, Nat.shiftRight_eq_div_pow]

/-- The payload is the whole rest of the word: nothing stands above it. -/
theorem payload_toNat {immW : Nat} (w : InstrWord immW) : (w.extractLsb' 9 immW).toNat = w.toNat / 512 := by
  have hw : w.toNat < 512 * 2 ^ immW := by simpa [pow_add] using w.isLt
  rw [BitVec.extractLsb'_toNat, Nat.shiftRight_eq_div_pow, Nat.mod_eq_of_lt]
  exact Nat.div_lt_of_lt_mul hw

theorem opNum_lt (i : Instr) : opNum i < 8 := by
  cases i <;> simp [opNum]

theorem modeNum_lt (m : Mode) : modeNum m < 8 := by
  cases m <;> simp [modeNum]

theorem regNum_lt (r : RegSel) : regNum r < 4 := by
  cases r <;> simp [regNum]

@[simp] theorem modeOf_modeNum (m : Mode) : modeOf (modeNum m) = m := by
  cases m <;> rfl

@[simp] theorem regOf_regNum (r : RegSel) : regOf (regNum r) = r := by
  cases r <;> rfl

theorem modeNum_modeOf {k : Nat} (h : k < 8) : modeNum (modeOf k) = k := by
  interval_cases k <;> rfl

theorem regNum_regOf {k : Nat} (h : k < 4) : regNum (regOf k) = k := by
  interval_cases k <;> rfl

@[simp] theorem instrOf_opNum (i : Instr) : instrOf (opNum i) i.operand = .known i := by
  cases i <;> rfl

/-- The numbers below 8 are the eight instructions. -/
theorem instrOf_of_lt {k : Nat} (h : k < 8) (o : Operand) : ∃ i, instrOf k o = .known i ∧ opNum i = k ∧ i.operand = o := by
  interval_cases k <;> exact ⟨_, rfl, rfl, rfl⟩

theorem instrOf_of_le {k : Nat} (h : 8 ≤ k) (o : Operand) : instrOf k o = .unknown k o := by
  obtain ⟨j, rfl⟩ := Nat.exists_eq_add_of_le' h
  rfl

@[simp] theorem decodedOpNum_instrOf (k : Nat) (o : Operand) : decodedOpNum (instrOf k o) = k := by
  rcases Nat.lt_or_ge k 8 with h | h
  · obtain ⟨i, hi, hk, -⟩ := instrOf_of_lt h o
    rw [hi, decodedOpNum, hk]
  · rw [instrOf_of_le h, decodedOpNum]

@[simp] theorem operand_instrOf (k : Nat) (o : Operand) : (instrOf k o).operand = o := by
  rcases Nat.lt_or_ge k 8 with h | h
  · obtain ⟨i, hi, -, ho⟩ := instrOf_of_lt h o
    rw [hi, Decoded.operand, ho]
  · rw [instrOf_of_le h, Decoded.operand]

theorem fits_iff (immW : Nat) (o : Operand) :
    o.fits immW = true ↔ -(2 : Int) ^ (immW - 1) ≤ o.n ∧ o.n < (2 : Int) ^ (immW - 1) := by
  simp [Operand.fits]

/-- An instruction has a word exactly when its payload fits; an unknown opcode also needs a number of 8 to 15. -/
theorem wfAt_iff (immW : Nat) (d : Decoded) :
    d.wfAt immW = true ↔ instrOf (decodedOpNum d) d.operand = d ∧ decodedOpNum d < 16 ∧ d.operand.fits immW = true := by
  cases d with
  | known i =>
    have hlt : opNum i < 16 := (opNum_lt i).trans (by decide)
    simp [Decoded.wfAt, Instr.wfAt, decodedOpNum, Decoded.operand, hlt]
  | unknown k o =>
    have hrow : instrOf k o = .unknown k o ↔ 8 ≤ k := by
      refine ⟨fun h => ?_, fun h => instrOf_of_le h o⟩
      by_contra hk
      obtain ⟨i, hi, -⟩ := instrOf_of_lt (not_le.1 hk) o
      rw [hi] at h
      cases h
    simp [Decoded.wfAt, decodedOpNum, Decoded.operand, hrow, Nat.lt_succ_iff, and_assoc]

/-- The payload of `Encode` is the two's complement pattern of `n`. -/
theorem wordValue_eq (immW : Nat) (d : Decoded) :
    wordValue immW d = decodedOpNum d + 16 * modeNum d.operand.mode + 128 * regNum d.operand.reg
      + 512 * (BitVec.ofInt immW d.operand.n).toNat := by
  simp [wordValue, BitVec.toNat_ofInt]

/-- The four fields fill the word and no more, so its value is not truncated. -/
theorem toNat_ofNat_wordValue {immW : Nat} {d : Decoded} (h : decodedOpNum d < 16) :
    (BitVec.ofNat (9 + immW) (wordValue immW d)).toNat = wordValue immW d := by
  have hm := modeNum_lt d.operand.mode
  have hr := regNum_lt d.operand.reg
  have hn : (BitVec.ofInt immW d.operand.n).toNat < 2 ^ immW := (BitVec.ofInt immW d.operand.n).isLt
  rw [BitVec.toNat_ofNat, Nat.mod_eq_of_lt]
  rw [wordValue_eq, pow_add]
  omega

/-- Every field of the word of `d` decodes to the field of `d`. -/
theorem decode_ofNat_wordValue {immW : Nat} {d : Decoded} (hpos : 0 < immW) (hwf : d.wfAt immW = true) :
    decode immW (BitVec.ofNat (9 + immW) (wordValue immW d)) = d := by
  obtain ⟨hrow, hop, hfits⟩ := (wfAt_iff immW d).1 hwf
  obtain ⟨hlo, hhi⟩ := (fits_iff immW d.operand).1 hfits
  have hm := modeNum_lt d.operand.mode
  have hr := regNum_lt d.operand.reg
  have hval := (toNat_ofNat_wordValue hop).trans (wordValue_eq immW d)
  generalize BitVec.ofNat (9 + immW) (wordValue immW d) = w at hval ⊢
  have hopf : opField w = decodedOpNum d := by rw [Laws.opField_eq]; omega
  have hmode : modeField w = modeNum d.operand.mode := by rw [modeField_eq]; omega
  have hreg : regField w = regNum d.operand.reg := by rw [regField_eq]; omega
  have hbits : w.extractLsb' 9 immW = BitVec.ofInt immW d.operand.n := by
    apply BitVec.eq_of_toNat_eq
    rw [payload_toNat]
    omega
  have hpay : payloadField w = d.operand.n := by
    rw [payloadField, hbits, BitVec.toInt_ofInt_eq_self hpos hlo hhi]
  rw [decode, hopf, hmode, hreg, hpay, modeOf_modeNum, regOf_regNum, hrow]

/-- Settles O1: the word of `Encode` decodes field by field. -/
theorem decodeOfEncodeGivesBack : Obligations.DecodeOfEncodeGivesBack := by
  intro immW d hpos hwf
  exact ⟨_, if_pos hwf, decode_ofNat_wordValue hpos hwf⟩

/-- What a word decodes to always has a word: its op field is below 16 and its payload has `immW` bits. -/
theorem wfAt_decode {immW : Nat} (w : InstrWord immW) : (decode immW w).wfAt immW = true := by
  have hop : opField w < 16 := by rw [Laws.opField_eq]; exact Nat.mod_lt _ (by decide)
  rw [wfAt_iff, fits_iff, decode, decodedOpNum_instrOf, operand_instrOf]
  exact ⟨rfl, hop, BitVec.le_toInt _, BitVec.toInt_lt⟩

/-- The value of a word is put together from the numbers of what it decodes to. -/
theorem wordValue_decode {immW : Nat} (w : InstrWord immW) : wordValue immW (decode immW w) = w.toNat := by
  have hmode : modeField w < 8 := by rw [modeField_eq]; exact Nat.mod_lt _ (by decide)
  have hreg : regField w < 4 := by rw [regField_eq]; exact Nat.mod_lt _ (by decide)
  have hpay : (BitVec.ofInt immW (payloadField w)).toNat = w.toNat / 512 := by
    rw [payloadField, BitVec.ofInt_toInt, payload_toNat]
  rw [wordValue_eq, decode, decodedOpNum_instrOf, operand_instrOf, modeNum_modeOf hmode, regNum_regOf hreg, hpay,
    Laws.opField_eq, modeField_eq, regField_eq]
  omega

/-- Settles O2: the fields of the word, put together again, are the word. -/
theorem encodeOfDecodeGivesBack : Obligations.EncodeOfDecodeGivesBack := by
  intro immW w _
  refine ⟨wfAt_decode w, ?_⟩
  rw [encode, if_pos (wfAt_decode w), wordValue_decode, BitVec.ofNat_toNat, BitVec.setWidth_eq]

/-- Settles O3: a payload out of range fails the one test of `Encode`. -/
theorem payloadOutOfRangeHasNoWord : Obligations.PayloadOutOfRangeHasNoWord := by
  intro immW d hout
  refine if_neg fun hwf => ?_
  obtain ⟨-, -, hfits⟩ := (wfAt_iff immW d).1 hwf
  obtain ⟨hlo, hhi⟩ := (fits_iff immW d.operand).1 hfits
  omega

/-- Settles O4: the op field is the word modulo 16, and its number is the instruction's row or UNKNOWN's number. -/
theorem lowBitsSelectInstruction : Obligations.LowBitsSelectInstruction := by
  intro immW w
  rw [← Laws.opField_eq]
  constructor
  · intro hlt
    obtain ⟨i, hi, hnum, -⟩ := instrOf_of_lt hlt ⟨modeOf (modeField w), regOf (regField w), payloadField w⟩
    exact ⟨i, hi, hnum⟩
  · intro hle
    exact ⟨_, instrOf_of_le hle _⟩

/-- Settles O5: nine words evaluated by the decoder. -/
theorem writtenWordsDecode : Obligations.WrittenWordsDecode := by
  unfold Obligations.WrittenWordsDecode
  decide

end Sys2Proof
end

section
/-! PROOFS. Decimal text (30_encoding.md R84, R88): the printed integer is read back, and it holds no character with a meaning of
its own in a token. -/

namespace Sys2Proof.Machine

theorem digitChar_toNat {d : Nat} (h : d < 10) : (digitChar d).toNat = 48 + d := by
  have hlow : 48 + d < 0xd800 := by omega
  have hvalid : (48 + d).isValidChar := Or.inl hlow
  rw [digitChar, Char.toNat_ofNat, if_pos hvalid]

theorem isDigit_iff (c : Char) : isDigit c = true ↔ 48 ≤ c.toNat ∧ c.toNat ≤ 57 := by
  unfold isDigit
  exact decide_eq_true_iff

theorem isDigit_digitChar {d : Nat} (h : d < 10) : isDigit (digitChar d) = true := by
  rw [isDigit_iff, digitChar_toNat h]
  omega

/-- The equation of `natFrom` at one more character. `rw [natFrom]` and `rfl` do not finish here: they evaluate the subtraction of
the literal 48 from a variable. -/
theorem natFrom_cons (acc : Nat) (c : Char) (t : Text) :
    natFrom acc (c :: t) = natFrom (10 * acc + (c.toNat - 48)) t := by
  delta natFrom
  dsimp only

/-- Reading a printed digit puts it after the value read so far. -/
theorem natFrom_digitChar {d : Nat} (h : d < 10) (acc : Nat) (t : Text) :
    natFrom acc (digitChar d :: t) = natFrom (10 * acc + d) t := by
  rw [natFrom_cons, digitChar_toNat h, Nat.add_sub_cancel_left]

/-- Digits put before a text are read first; the fuel is enough when it exceeds the number. -/
theorem natFrom_digitsOnto {fuel n : Nat} (h : n < fuel) (t : Text) : natFrom 0 (digitsOnto fuel n t) = natFrom n t := by
  induction fuel generalizing n t with
  | zero => exact absurd h (Nat.not_lt_zero n)
  | succ fuel ih =>
    rw [digitsOnto]
    split
    case isTrue hlt => rw [natFrom_digitChar hlt, Nat.mul_zero, Nat.zero_add]
    case isFalse hge =>
      rw [ih (by omega), natFrom_digitChar (Nat.mod_lt n (by decide)), Nat.div_add_mod]

theorem all_isDigit_digitsOnto (fuel n : Nat) {t : Text} (h : t.all isDigit = true) :
    (digitsOnto fuel n t).all isDigit = true := by
  induction fuel generalizing n t with
  | zero => exact h
  | succ fuel ih =>
    rw [digitsOnto]
    split
    case isTrue hlt => rw [List.all_cons, isDigit_digitChar hlt, h]; rfl
    case isFalse _ =>
      refine ih (n / 10) ?_
      rw [List.all_cons, isDigit_digitChar (Nat.mod_lt n (by decide)), h]
      rfl

theorem digitsOnto_ne_nil (fuel n : Nat) {t : Text} (h : t ≠ []) : digitsOnto fuel n t ≠ [] := by
  induction fuel generalizing n t with
  | zero => exact h
  | succ fuel ih =>
    rw [digitsOnto]
    split
    case isTrue _ => exact List.cons_ne_nil _ _
    case isFalse _ => exact ih (n / 10) (List.cons_ne_nil _ _)

theorem natText_ne_nil (n : Nat) : natText n ≠ [] := by
  rw [natText, digitsOnto]
  split
  · exact List.cons_ne_nil _ _
  · exact digitsOnto_ne_nil _ _ (List.cons_ne_nil _ _)

theorem isDigit_of_mem_natText {n : Nat} {c : Char} (h : c ∈ natText n) : isDigit c = true :=
  List.all_eq_true.1 (all_isDigit_digitsOnto (n + 1) n rfl) c h

theorem isNat_natText (n : Nat) : isNat (natText n) = true := by
  have hall : (natText n).all isDigit = true := List.all_eq_true.2 fun _ => isDigit_of_mem_natText
  simp [isNat, natText_ne_nil, hall]

theorem natFrom_natText (n : Nat) : natFrom 0 (natText n) = n :=
  natFrom_digitsOnto (Nat.lt_succ_self n) []

/-- A printed natural number begins with a digit, so no sign is split off. -/
theorem splitSign_natText (n : Nat) : splitSign (natText n) = (false, natText n) := by
  cases h : natText n with
  | nil => rfl
  | cons c rest =>
    have hdigit : isDigit c = true := isDigit_of_mem_natText (h ▸ List.mem_cons_self)
    have hc : c ≠ '-' := by rintro rfl; exact absurd hdigit (by decide)
    rw [splitSign, if_neg hc]

/-- A printed integer splits into its sign and the digits of its absolute value. -/
theorem splitSign_intText (n : Int) : splitSign (intText n) = (decide (n < 0), natText n.natAbs) := by
  unfold intText
  split
  case isTrue hneg => simp [splitSign, hneg]
  case isFalse hpos => rw [splitSign_natText, decide_eq_false hpos]

@[simp] theorem isInt_intText (n : Int) : isInt (intText n) = true := by
  rw [isInt, splitSign_intText, isNat_natText]

@[simp] theorem intOf_intText (n : Int) : intOf (intText n) = n := by
  rw [intOf, splitSign_intText, natFrom_natText]
  by_cases hneg : n < 0
  · simp only [decide_eq_true hneg, if_true]
    omega
  · simp only [decide_eq_false hneg, Bool.false_eq_true, if_false]
    omega

theorem intText_ne_nil (n : Int) : intText n ≠ [] := by
  unfold intText
  split
  · exact List.cons_ne_nil _ _
  · exact natText_ne_nil _

/-- The characters of a printed integer are digits and the minus sign. -/
theorem mem_intText {n : Int} {c : Char} (h : c ∈ intText n) : c = '-' ∨ isDigit c = true := by
  unfold intText at h
  split at h
  · exact (List.mem_cons.1 h).imp_right isDigit_of_mem_natText
  · exact .inr (isDigit_of_mem_natText h)

/-- A character that is neither a digit nor the minus sign is in no printed integer. -/
theorem ne_of_mem_intText {n : Int} {c d : Char} (h : c ∈ intText n) (hd : d ≠ '-' ∧ isDigit d = false) : c ≠ d := by
  rintro rfl
  rcases mem_intText h with rfl | hdigit
  · exact hd.1 rfl
  · rw [hd.2] at hdigit
    cases hdigit

end Sys2Proof.Machine
end

section
/-! PROOFS. The tokenizer (30_encoding.md R83 to R85): what each kind of token gives, and the canonical token of well-formed fields
read back (R88). -/

namespace Sys2Proof.Machine

/-- What a token can give (30_encoding.md R77, R83): BAD, a well-formed operand, or an index register that is not supported. -/
def TokenForm (o : Operand) : Prop :=
  o = badOperand ∨ o.hasText = true ∨ (o.mode = .idx ∧ (o.reg = .acc ∨ o.reg = .other))

theorem tokenForm_prefixedOperand {m : Mode} (hm : m = .imm ∨ m = .ind ∨ m = .rel) (p : Text) :
    TokenForm (prefixedOperand m p) := by
  unfold prefixedOperand
  split
  · rcases hm with rfl | rfl | rfl <;> exact .inr (.inl rfl)
  · exact .inl rfl

theorem tokenForm_indexedOperand (off name : Text) : TokenForm (indexedOperand off name) := by
  unfold indexedOperand
  cases indexName name with
  | acc => exact .inr (.inr ⟨rfl, .inl rfl⟩)
  | other => exact .inr (.inr ⟨rfl, .inr rfl⟩)
  | r1 | r2 =>
    by_cases hoff : isInt off = true
    · simp only [if_pos hoff]
      exact .inr (.inl rfl)
    · simp only [if_neg hoff]
      exact .inl rfl

theorem tokenForm_plainOperand (t : Text) : TokenForm (plainOperand t) := by
  unfold plainOperand
  split
  · exact .inr (.inl rfl)
  split
  · exact .inr (.inl rfl)
  split
  · exact .inr (.inl rfl)
  split
  · exact .inr (.inl rfl)
  · exact .inl rfl

theorem tokenForm_unprefixedOperand (t : Text) : TokenForm (unprefixedOperand t) := by
  unfold unprefixedOperand
  split
  · split
    · exact tokenForm_indexedOperand _ _
    · exact tokenForm_plainOperand t
  · exact tokenForm_plainOperand t

theorem tokenForm_tokenize (t : Option Text) : TokenForm (tokenize t) := by
  match t with
  | none => exact .inr (.inl rfl)
  | some [] => exact .inl rfl
  | some (c :: p) =>
    rw [tokenize]
    split
    · exact tokenForm_prefixedOperand (.inl rfl) p
    split
    · exact tokenForm_prefixedOperand (.inr (.inl rfl)) p
    split
    · exact tokenForm_prefixedOperand (.inr (.inr rfl)) p
    · exact tokenForm_unprefixedOperand (c :: p)

/-- Settles O7: the three kinds of token, prefixed, indexed and plain, each give one of the three forms. -/
theorem tokenizerEmitsNoStrayField : Obligations.TokenizerEmitsNoStrayField :=
  tokenForm_tokenize

/-- A text without an opening parenthesis before one splits there. -/
theorem afterParen_append {t : Text} (h : ∀ c ∈ t, c ≠ '(') (rest : Text) : afterParen (t ++ '(' :: rest) = some rest := by
  induction t with
  | nil => rfl
  | cons c t ih =>
    rw [List.cons_append, afterParen, if_neg (h c List.mem_cons_self), ih fun d hd => h d (List.mem_cons_of_mem c hd)]

theorem beforeParen_append {t : Text} (h : ∀ c ∈ t, c ≠ '(') (rest : Text) : beforeParen (t ++ '(' :: rest) = t := by
  induction t with
  | nil => rfl
  | cons c t ih =>
    rw [List.cons_append, beforeParen, if_neg (h c List.mem_cons_self), ih fun d hd => h d (List.mem_cons_of_mem c hd)]

theorem afterParen_eq_none {t : Text} (h : ∀ c ∈ t, c ≠ '(') : afterParen t = none := by
  induction t with
  | nil => rfl
  | cons c t ih =>
    rw [afterParen, if_neg (h c List.mem_cons_self), ih fun d hd => h d (List.mem_cons_of_mem c hd)]

theorem paren_not_mem_intText (n : Int) : ∀ c ∈ intText n, c ≠ '(' :=
  fun _ hc => ne_of_mem_intText hc (by decide)

/-- A printed integer does not begin with `#`, `@` or `+`. -/
theorem tokenize_intText_append (n : Int) (rest : Text) :
    tokenize (some (intText n ++ rest)) = unprefixedOperand (intText n ++ rest) := by
  cases h : intText n with
  | nil => exact absurd h (intText_ne_nil n)
  | cons c t =>
    have hc : c ∈ intText n := h ▸ List.mem_cons_self
    have himm : c ≠ '#' := ne_of_mem_intText hc (by decide)
    have hind : c ≠ '@' := ne_of_mem_intText hc (by decide)
    have hrel : c ≠ '+' := ne_of_mem_intText hc (by decide)
    simp only [List.cons_append, tokenize, himm, hind, hrel, if_false]

theorem tokenize_intText (n : Int) : tokenize (some (intText n)) = ⟨.dir, .acc, n⟩ := by
  have hne : ∀ name : Text, isInt name = false → intText n ≠ name := by
    rintro name hname rfl
    rw [isInt_intText] at hname
    cases hname
  have htok := tokenize_intText_append n []
  rw [List.append_nil] at htok
  rw [htok, unprefixedOperand, afterParen_eq_none (paren_not_mem_intText n)]
  simp only [plainOperand, hne ['A', 'C', 'C'] (by decide), hne ['R', '1'] (by decide), hne ['R', '2'] (by decide),
    isInt_intText, intOf_intText, if_true, if_false]

/-- An indexed token is split at its parentheses into the printed offset and the name. -/
theorem tokenize_intText_paren (n : Int) (name : Text) :
    tokenize (some (intText n ++ '(' :: name ++ [')'])) = indexedOperand (intText n) name := by
  have hsplit := paren_not_mem_intText n
  rw [List.append_assoc, tokenize_intText_append, unprefixedOperand, List.cons_append, afterParen_append hsplit,
    beforeParen_append hsplit]
  simp

/-- The canonical token of well-formed fields, absent for mode NONE, tokenizes to them. -/
theorem tokenize_operandText {o : Operand} (h : o.hasText = true) : tokenize (operandText o) = o := by
  obtain ⟨m, r, n⟩ := o
  cases m with
  | none =>
    obtain ⟨rfl, rfl⟩ : r = .acc ∧ n = 0 := by simpa [Operand.hasText] using h
    rfl
  | imm | ind | rel =>
    obtain rfl : r = .acc := by simpa [Operand.hasText] using h
    simp [operandText, tokenize, prefixedOperand]
  | idx =>
    have hr : r = .r1 ∨ r = .r2 := by simpa [Operand.hasText] using h
    have htok : operandText ⟨.idx, r, n⟩ = some (intText n ++ '(' :: regText r ++ [')']) := rfl
    rw [htok, tokenize_intText_paren]
    rcases hr with rfl | rfl <;> simp [indexedOperand, indexName, regText]
  | reg =>
    obtain ⟨hr, rfl⟩ : r ≠ .other ∧ n = 0 := by simpa [Operand.hasText] using h
    cases r with
    | acc | r1 | r2 => decide
    | other => exact absurd rfl hr
  | dir =>
    obtain rfl : r = .acc := by simpa [Operand.hasText] using h
    exact tokenize_intText n
  | bad => cases h

/-- Each mnemonic is tested before the ones it could be taken for: it gives its own instruction. -/
theorem instrOfText_mnemonic (i : Instr) : instrOfText (mnemonic i) i.operand = .known i := by
  cases i <;> rfl

/-- Settles O6: the mnemonic names the instruction and the canonical token its operand fields. -/
theorem canonicalTextRoundTrip : Obligations.CanonicalTextRoundTrip := by
  intro i htext
  refine ⟨mnemonic i, operandText i.operand, if_pos htext, ?_⟩
  rw [assemble, tokenize_operandText htext, instrOfText_mnemonic]

/-- Settles O8: `instrOfText` compares with the eight mnemonics and no other. -/
theorem mnemonicsAreAClosedSet : Obligations.MnemonicsAreAClosedSet := by
  intro m t
  constructor
  · rintro i hoperand rfl
    rw [assemble, ← hoperand, instrOfText_mnemonic]
  · intro hne
    simp only [assemble, instrOfText, hne, if_false]

end Sys2Proof.Machine
end

section
/-! PROOFS. OperandCheck and its relation (30_encoding.md R77), and the shapes of well-formed fields. -/

namespace Sys2Proof.Machine

/-- Every error of the table is the one that the first test to fire gives: where two tests can fire, they give the same. -/
theorem operandCheck_of_staticError {o : Operand} {k : ErrKind} (h : StaticError o k) : operandCheck o = some k := by
  cases h with
  | badToken r n => simp [operandCheck]
  | badIndex r n hr =>
    have hnone : indexReg r = none := by rcases hr with rfl | rfl <;> rfl
    exact operandCheck_idx_of_indexReg_none hnone n
  | badRegister n => simp [operandCheck]
  | strayPayload r n hn => simp [operandCheck, hn]
  | strayRegister m r n hidx hreg hr => simp [operandCheck, hidx, hreg, hr]
  | strayNoOperand r n hn => simp [operandCheck, hn]

/-- Each of the six tests that fires is a case of the relation. -/
theorem staticError_of_operandCheck {o : Operand} {k : ErrKind} (h : operandCheck o = some k) : StaticError o k := by
  obtain ⟨m, r, n⟩ := o
  unfold operandCheck at h
  split at h
  case isTrue hbad =>
    obtain rfl : m = .bad := hbad
    cases h
    exact .badToken r n
  split at h
  case isTrue hidx =>
    obtain ⟨rfl, hr⟩ : m = .idx ∧ indexReg r = none := hidx
    cases h
    exact .badIndex r n (by cases r <;> simp_all [indexReg])
  split at h
  case isTrue hreg =>
    obtain ⟨rfl, rfl⟩ : m = .reg ∧ r = .other := hreg
    cases h
    exact .badRegister n
  split at h
  case isTrue hpay =>
    obtain ⟨rfl, hn⟩ : m = .reg ∧ n ≠ 0 := hpay
    cases h
    exact .strayPayload r n hn
  split at h
  case isTrue hstray =>
    obtain ⟨hidx, hreg, hr⟩ : m ≠ .idx ∧ m ≠ .reg ∧ r ≠ .acc := hstray
    cases h
    exact .strayRegister m r n hidx hreg hr
  split at h
  case isTrue hnone =>
    obtain ⟨rfl, hn⟩ : m = .none ∧ n ≠ 0 := hnone
    cases h
    exact .strayNoOperand r n hn
  case isFalse => cases h

/-- Settles O16: both directions of the six tests, and the well-formed fields, which pass them all. -/
theorem operandCheckDecidesStaticErrors : Obligations.OperandCheckDecidesStaticErrors := fun o =>
  ⟨fun _ => ⟨staticError_of_operandCheck, operandCheck_of_staticError⟩, operandCheck_eq_none_iff o⟩

theorem staticError_or_hasText (o : Operand) : (∃ k, StaticError o k) ∨ o.hasText = true := by
  cases h : operandCheck o with
  | none => exact .inr ((operandCheck_eq_none_iff o).1 h)
  | some k => exact .inl ⟨k, staticError_of_operandCheck h⟩

/-- Only an index register other than R1 and R2 is a static UnsupportedAddressingMode. -/
theorem staticError_unsupported_iff (o : Operand) :
    StaticError o .unsupportedAddressingMode ↔ o.mode = .idx ∧ (o.reg = .acc ∨ o.reg = .other) := by
  constructor
  · rintro (_ | ⟨r, n, hr⟩)
    exact ⟨rfl, hr⟩
  · obtain ⟨m, r, n⟩ := o
    rintro ⟨rfl, hr⟩
    exact .badIndex r n hr

/-- The well-formed fields, written out: no operand, a payload alone, an index register with its offset, or a register alone. -/
theorem hasText_cases {o : Operand} (h : o.hasText = true) :
    o = ⟨.none, .acc, 0⟩
      ∨ (∃ n, o = ⟨.imm, .acc, n⟩) ∨ (∃ n, o = ⟨.ind, .acc, n⟩) ∨ (∃ n, o = ⟨.rel, .acc, n⟩) ∨ (∃ n, o = ⟨.dir, .acc, n⟩)
      ∨ (∃ n, o = ⟨.idx, .r1, n⟩) ∨ (∃ n, o = ⟨.idx, .r2, n⟩)
      ∨ ∃ r, DestReg o r := by
  obtain ⟨m, r, n⟩ := o
  cases m with
  | none =>
    obtain ⟨rfl, rfl⟩ : r = .acc ∧ n = 0 := by simpa [Operand.hasText] using h
    exact .inl rfl
  | imm | ind | rel | dir =>
    obtain rfl : r = .acc := by simpa [Operand.hasText] using h
    simp
  | idx =>
    have hr : r = .r1 ∨ r = .r2 := by simpa [Operand.hasText] using h
    rcases hr with rfl | rfl <;> simp
  | reg =>
    have hr : r ≠ .other := by
      rintro rfl
      cases h
    obtain ⟨q, hq⟩ : ∃ q, namedReg r = some q := by
      cases r with
      | acc | r1 | r2 => exact ⟨_, rfl⟩
      | other => exact absurd rfl hr
    have hdest : DestReg ⟨.reg, r, n⟩ q := destReg_of_hasText h rfl hq
    exact .inr (.inr (.inr (.inr (.inr (.inr (.inr ⟨q, hdest⟩))))))
  | bad => cases h

end Sys2Proof.Machine
end

section
/-! PROOFS. The read path is the table's (40_addressing_resolver.md R101 to R107, R115): the two relations are sound for the resolver,
and every operand is in one of them. As the resolver has one answer, both are then exact. -/

namespace Sys2Proof.Machine

theorem resolveRead_of_staticError {o : Operand} {k : ErrKind} (h : StaticError o k) (s : State) :
    resolveRead o s = .error ⟨k, none⟩ :=
  resolveRead_of_operandCheck_some (operandCheck_of_staticError h) s

theorem resolveRead_none (s : State) : resolveRead ⟨.none, .acc, 0⟩ s = .error ⟨.malformedOperand, none⟩ :=
  resolveRead_of_hasText rfl s

theorem resolveRead_ind_of_inRange {n : Int} {s : State} (h : s.mem.inRange n) :
    resolveRead ⟨.ind, .acc, n⟩ s = memRead (s.mem.get n.toNat) s := by
  rw [resolveRead_of_hasText rfl, readMode, indirectRead, memRead_of_inRange h]

theorem resolveRead_ind_of_not_inRange {n : Int} {s : State} (h : ¬ s.mem.inRange n) :
    resolveRead ⟨.ind, .acc, n⟩ s = .error (outOfRange n) := by
  rw [resolveRead_of_hasText rfl, readMode, indirectRead, memRead_of_not_inRange h]

theorem resolveRead_of_denotes {o : Operand} {s : State} {v : Value} (h : Denotes s o v) : resolveRead o s = .ok v := by
  cases h with
  | imm n => exact resolveRead_imm v s
  | ind n hn hp => rw [resolveRead_ind_of_inRange hn, memRead_of_inRange hp]
  | rel n hin => rw [resolveRead_rel, memRead_of_inRange hin]
  | idxR1 n hin => rw [resolveRead_idx_r1, memRead_of_inRange hin]
  | idxR2 n hin => rw [resolveRead_idx_r2, memRead_of_inRange hin]
  | regAcc => exact resolveRead_of_destReg .acc s
  | regR1 => exact resolveRead_of_destReg .r1 s
  | regR2 => exact resolveRead_of_destReg .r2 s
  | dir n hin => rw [resolveRead_dir, memRead_of_inRange hin]

theorem resolveRead_of_readFault {o : Operand} {s : State} {e : Raise} (h : ReadFault s o e) :
    resolveRead o s = .error e := by
  cases h with
  | static _ k hk => exact resolveRead_of_staticError hk s
  | absent => exact resolveRead_none s
  | indFirst n hn => exact resolveRead_ind_of_not_inRange hn
  | indSecond n hn hp => rw [resolveRead_ind_of_inRange hn, memRead_of_not_inRange hp, outOfRange]
  | rel n hout => rw [resolveRead_rel, memRead_of_not_inRange hout, outOfRange]
  | idxR1 n hout => rw [resolveRead_idx_r1, memRead_of_not_inRange hout, outOfRange]
  | idxR2 n hout => rw [resolveRead_idx_r2, memRead_of_not_inRange hout, outOfRange]
  | dir n hout => rw [resolveRead_dir, memRead_of_not_inRange hout, outOfRange]

theorem denotes_of_destReg {o : Operand} {r : Reg} (h : DestReg o r) (s : State) : Denotes s o (regRead r s) := by
  cases h with
  | acc => exact .regAcc
  | r1 => exact .regR1
  | r2 => exact .regR2

/-- The table leaves no operand out: in every state it gives a value or an error. -/
theorem denotes_or_readFault (o : Operand) (s : State) : (∃ v, Denotes s o v) ∨ ∃ e, ReadFault s o e := by
  rcases staticError_or_hasText o with ⟨k, hk⟩ | htext
  · exact .inr ⟨_, .static o k hk⟩
  rcases hasText_cases htext with rfl | ⟨n, rfl⟩ | ⟨n, rfl⟩ | ⟨n, rfl⟩ | ⟨n, rfl⟩ | ⟨n, rfl⟩ | ⟨n, rfl⟩ | ⟨r, hr⟩
  · exact .inr ⟨_, .absent⟩
  · exact .inl ⟨n, .imm n⟩
  · by_cases hn : s.mem.inRange n
    · by_cases hp : s.mem.inRange (s.mem.get n.toNat)
      · exact .inl ⟨_, .ind n hn hp⟩
      · exact .inr ⟨_, .indSecond n hn hp⟩
    · exact .inr ⟨_, .indFirst n hn⟩
  · by_cases hin : s.mem.inRange (s.pc + n)
    · exact .inl ⟨_, .rel n hin⟩
    · exact .inr ⟨_, .rel n hin⟩
  · by_cases hin : s.mem.inRange n
    · exact .inl ⟨_, .dir n hin⟩
    · exact .inr ⟨_, .dir n hin⟩
  · by_cases hin : s.mem.inRange (n + s.r1)
    · exact .inl ⟨_, .idxR1 n hin⟩
    · exact .inr ⟨_, .idxR1 n hin⟩
  · by_cases hin : s.mem.inRange (n + s.r2)
    · exact .inl ⟨_, .idxR2 n hin⟩
    · exact .inr ⟨_, .idxR2 n hin⟩
  · exact .inl ⟨_, denotes_of_destReg hr s⟩

theorem resolveRead_ok_iff (o : Operand) (s : State) (v : Value) : resolveRead o s = .ok v ↔ Denotes s o v := by
  refine ⟨fun h => ?_, resolveRead_of_denotes⟩
  rcases denotes_or_readFault o s with ⟨w, hw⟩ | ⟨e, he⟩
  · rw [resolveRead_of_denotes hw] at h
    cases h
    exact hw
  · rw [resolveRead_of_readFault he] at h
    cases h

theorem resolveRead_error_iff (o : Operand) (s : State) (e : Raise) : resolveRead o s = .error e ↔ ReadFault s o e := by
  refine ⟨fun h => ?_, resolveRead_of_readFault⟩
  rcases denotes_or_readFault o s with ⟨v, hv⟩ | ⟨e', he⟩
  · rw [resolveRead_of_denotes hv] at h
    cases h
  · rw [resolveRead_of_readFault he] at h
    cases h
    exact he

/-- Settles O18: the pointer is what the first MemRead gives, and the second MemRead is at the pointer. -/
theorem indirectReadFollowsThePointer : Obligations.IndirectReadFollowsThePointer := by
  intro n s
  have hsecond : ∀ p, memRead n s = .ok p → resolveRead ⟨.ind, .acc, n⟩ s = memRead p s := by
    intro p hp
    rw [resolveRead_of_hasText rfl, readMode, indirectRead, hp]
  refine ⟨resolveRead_ind_of_not_inRange, hsecond, fun p hp hout => ?_⟩
  rw [hsecond p hp, memRead_of_not_inRange hout, outOfRange]

/-- Settles O23: soundness of both relations and their totality. -/
theorem readPathMatchesTheTable : Obligations.ReadPathMatchesTheTable := fun o s =>
  ⟨resolveRead_ok_iff o s, resolveRead_error_iff o s⟩

end Sys2Proof.Machine
end

section
/-! PROOFS. The write path is the table's (40_addressing_resolver.md R108 to R112, R115), and the branch target is its relation's
(44_control_transfer.md R147), in the same way. -/

namespace Sys2Proof.Machine

/-- What the table says a write does when it raises nothing: one register, or one cell in range, is written. -/
def WriteResult (s : State) (o : Operand) (v : Value) (t : State) : Prop :=
  (∃ r, DestReg o r ∧ t = regWrite r v s) ∨
    (∃ a, DestCell s o a ∧ s.mem.inRange a ∧ t = { s with mem := s.mem.put a.toNat v })

/-- Every memory destination is one MemWrite at its address. -/
theorem resolveWrite_of_destCell {o : Operand} {a : Int} {s : State} (h : DestCell s o a) (v : Value) :
    resolveWrite o v s = memWrite a v s := by
  cases h <;> exact resolveWrite_of_hasText rfl v s

theorem resolveWrite_of_writeResult {o : Operand} {v : Value} {s t : State} (h : WriteResult s o v t) :
    resolveWrite o v s = .ok t := by
  rcases h with ⟨r, hr, rfl⟩ | ⟨a, ha, hin, rfl⟩
  · exact resolveWrite_of_destReg hr v s
  · rw [resolveWrite_of_destCell ha, memWrite_of_inRange hin, State.setMem]

theorem resolveWrite_of_staticError {o : Operand} {k : ErrKind} (h : StaticError o k) (v : Value) (s : State) :
    resolveWrite o v s = .error ⟨k, none⟩ := by
  simp only [resolveWrite, operandCheck_of_staticError h, bare]

theorem resolveWrite_of_writeFault {o : Operand} {s : State} {e : Raise} (h : WriteFault s o e) (v : Value) :
    resolveWrite o v s = .error e := by
  cases h with
  | static _ k hk => exact resolveWrite_of_staticError hk v s
  | absent => exact resolveWrite_of_hasText rfl v s
  | readOnly m n hm => rcases hm with rfl | rfl | rfl <;> exact resolveWrite_of_hasText rfl v s
  | cell _ a ha hout => rw [resolveWrite_of_destCell ha, memWrite_of_not_inRange hout, outOfRange]

/-- A memory destination writes its cell, or raises where its address is out of range. -/
theorem writeResult_or_writeFault_of_destCell {o : Operand} {s : State} {a : Int} (h : DestCell s o a) (v : Value) :
    (∃ t, WriteResult s o v t) ∨ ∃ e, WriteFault s o e := by
  by_cases hin : s.mem.inRange a
  · exact .inl ⟨_, .inr ⟨a, h, hin, rfl⟩⟩
  · exact .inr ⟨_, .cell o a h hin⟩

theorem writeResult_or_writeFault (o : Operand) (v : Value) (s : State) :
    (∃ t, WriteResult s o v t) ∨ ∃ e, WriteFault s o e := by
  rcases staticError_or_hasText o with ⟨k, hk⟩ | htext
  · exact .inr ⟨_, .static o k hk⟩
  rcases hasText_cases htext with rfl | ⟨n, rfl⟩ | ⟨n, rfl⟩ | ⟨n, rfl⟩ | ⟨n, rfl⟩ | ⟨n, rfl⟩ | ⟨n, rfl⟩ | ⟨r, hr⟩
  · exact .inr ⟨_, .absent⟩
  · exact .inr ⟨_, .readOnly .imm n (.inl rfl)⟩
  · exact .inr ⟨_, .readOnly .ind n (.inr (.inl rfl))⟩
  · exact .inr ⟨_, .readOnly .rel n (.inr (.inr rfl))⟩
  · exact writeResult_or_writeFault_of_destCell (.dir n) v
  · exact writeResult_or_writeFault_of_destCell (.idxR1 n) v
  · exact writeResult_or_writeFault_of_destCell (.idxR2 n) v
  · exact .inl ⟨_, .inl ⟨r, hr, rfl⟩⟩

theorem resolveWrite_ok_iff (o : Operand) (v : Value) (s t : State) :
    resolveWrite o v s = .ok t ↔ WriteResult s o v t := by
  refine ⟨fun h => ?_, resolveWrite_of_writeResult⟩
  rcases writeResult_or_writeFault o v s with ⟨u, hu⟩ | ⟨e, he⟩
  · rw [resolveWrite_of_writeResult hu] at h
    cases h
    exact hu
  · rw [resolveWrite_of_writeFault he] at h
    cases h

theorem resolveWrite_error_iff (o : Operand) (v : Value) (s : State) (e : Raise) :
    resolveWrite o v s = .error e ↔ WriteFault s o e := by
  refine ⟨fun h => ?_, fun he => resolveWrite_of_writeFault he v⟩
  rcases writeResult_or_writeFault o v s with ⟨u, hu⟩ | ⟨e', he⟩
  · rw [resolveWrite_of_writeResult hu] at h
    cases h
  · rw [resolveWrite_of_writeFault he] at h
    cases h
    exact he

/-- Settles O24: soundness of both relations and their totality. -/
theorem writePathMatchesTheTable : Obligations.WritePathMatchesTheTable := fun o v s =>
  ⟨resolveWrite_ok_iff o v s, resolveWrite_error_iff o v s⟩

theorem branchTarget_of_hasText {o : Operand} (h : o.hasText = true) :
    branchTarget o = if o.mode ≠ .dir then .error (bare .malformedOperand)
      else if o.n < 0 then .error (outOfRange o.n) else .ok o.n.toNat := by
  rw [branchTarget, (operandCheck_eq_none_iff o).2 h]

/-- A bare non-negative integer is its own target. -/
theorem branchTarget_dir (t : Nat) : branchTarget ⟨.dir, .acc, t⟩ = .ok t := by
  have hn : ¬ (t : Int) < 0 := not_lt.2 (Int.natCast_nonneg t)
  rw [branchTarget_of_hasText rfl, if_neg (not_not.2 rfl), if_neg hn, Int.toNat_natCast]

theorem branchTarget_of_targetFault {o : Operand} {e : Raise} (h : TargetFault o e) : branchTarget o = .error e := by
  cases h with
  | static _ k hk => simp only [branchTarget, operandCheck_of_staticError hk, bare]
  | notBare _ htext hm => rw [branchTarget_of_hasText htext, if_pos hm, bare]
  | negative n hn => rw [branchTarget_of_hasText rfl, if_neg (not_not.2 rfl), if_pos hn, outOfRange]

theorem target_or_targetFault (o : Operand) : (∃ t : Nat, o = ⟨.dir, .acc, t⟩) ∨ ∃ e, TargetFault o e := by
  rcases staticError_or_hasText o with ⟨k, hk⟩ | htext
  · exact .inr ⟨_, .static o k hk⟩
  by_cases hm : o.mode = .dir
  · obtain ⟨m, r, n⟩ := o
    obtain rfl : m = .dir := hm
    obtain rfl : r = .acc := by simpa [Operand.hasText] using htext
    rcases lt_or_ge n 0 with hneg | hpos
    · exact .inr ⟨_, .negative n hneg⟩
    · exact .inl ⟨n.toNat, by rw [Int.toNat_of_nonneg hpos]⟩
  · exact .inr ⟨_, .notBare o htext hm⟩

theorem branchTarget_error_iff (o : Operand) (e : Raise) : branchTarget o = .error e ↔ TargetFault o e := by
  refine ⟨fun h => ?_, branchTarget_of_targetFault⟩
  rcases target_or_targetFault o with ⟨t, rfl⟩ | ⟨e', he⟩
  · rw [branchTarget_dir] at h
    cases h
  · rw [branchTarget_of_targetFault he] at h
    cases h
    exact he

/-- On each path UnsupportedAddressingMode is a static error, so it has no info. -/
theorem readFault_unsupported_iff (s : State) (o : Operand) (x : Option Int) :
    ReadFault s o ⟨.unsupportedAddressingMode, x⟩ ↔ x = none ∧ StaticError o .unsupportedAddressingMode := by
  constructor
  · intro h
    cases h with
    | static _ _ hk => exact ⟨rfl, hk⟩
  · rintro ⟨rfl, hk⟩
    exact .static o _ hk

theorem writeFault_unsupported_iff (s : State) (o : Operand) (x : Option Int) :
    WriteFault s o ⟨.unsupportedAddressingMode, x⟩ ↔ x = none ∧ StaticError o .unsupportedAddressingMode := by
  constructor
  · intro h
    cases h with
    | static _ _ hk => exact ⟨rfl, hk⟩
  · rintro ⟨rfl, hk⟩
    exact .static o _ hk

theorem targetFault_unsupported_iff (o : Operand) (x : Option Int) :
    TargetFault o ⟨.unsupportedAddressingMode, x⟩ ↔ x = none ∧ StaticError o .unsupportedAddressingMode := by
  constructor
  · intro h
    cases h with
    | static _ _ hk => exact ⟨rfl, hk⟩
  · rintro ⟨rfl, hk⟩
    exact .static o _ hk

/-- Settles O27: on the three paths the error is that of the second static test, and that test is on the index register. -/
theorem unsupportedModeExactlyForOtherIndexRegisters : Obligations.UnsupportedModeExactlyForOtherIndexRegisters := by
  intro o v s
  simp only [resolveRead_error_iff, resolveWrite_error_iff, branchTarget_error_iff, readFault_unsupported_iff,
    writeFault_unsupported_iff, targetFault_unsupported_iff, exists_eq_left, staticError_unsupported_iff, and_self]

end Sys2Proof.Machine
end

section
/-! PROOFS. What each instruction does when its operand is good and when it raises (41_load_store.md to 45_halt.md): an equation for
each end of each handler. -/

namespace Sys2Proof.Machine

theorem exec_load_of_resolveRead {o : Operand} {s : State} {v : Value} (h : resolveRead o s = .ok v) :
    exec (.load o) s = .next (s.setAcc v).advance := by
  simp only [exec, execLoad, loadHandler, h, endHandler]

/-- A handler that raises ends in the fault entry, at the index of its own instruction. -/
theorem endHandler_error (i : Instr) (s : State) (e : Raise) : endHandler i s (.error e) = .next (s.faultedAt i e) :=
  rfl

theorem exec_load_of_error {o : Operand} {s : State} {e : Raise} (h : resolveRead o s = .error e) :
    exec (.load o) s = .next (s.faultedAt (.load o) e) := by
  simp only [exec, execLoad, loadHandler, h, endHandler_error]

theorem exec_add_of_error {o : Operand} {s : State} {e : Raise} (h : resolveRead o s = .error e) :
    exec (.add o) s = .next (s.faultedAt (.add o) e) := by
  simp only [exec, execAdd, addHandler, h, endHandler_error]

theorem exec_sub_of_error {o : Operand} {s : State} {e : Raise} (h : resolveRead o s = .error e) :
    exec (.sub o) s = .next (s.faultedAt (.sub o) e) := by
  simp only [exec, execSub, subHandler, h, endHandler_error]

theorem exec_jmp_of_branchTarget {o : Operand} {t : Nat} (h : branchTarget o = .ok t) (s : State) :
    exec (.jmp o) s = .next (s.setPc t) := by
  simp only [exec, execJmp, jmpHandler, h, endHandler]

theorem exec_jmp_of_error {o : Operand} {e : Raise} (h : branchTarget o = .error e) (s : State) :
    exec (.jmp o) s = .next (s.faultedAt (.jmp o) e) := by
  simp only [exec, execJmp, jmpHandler, h, endHandler_error]

theorem exec_jz_of_branchTarget {o : Operand} {t : Nat} (h : branchTarget o = .ok t) (s : State) :
    exec (.jz o) s = .next (if s.acc = 0 then s.setPc t else s.advance) := by
  simp only [exec, execJz, jzHandler, h, endHandler, accIsZero, decide_eq_true_eq]

theorem exec_jz_of_error {o : Operand} {e : Raise} (h : branchTarget o = .error e) (s : State) :
    exec (.jz o) s = .next (s.faultedAt (.jz o) e) := by
  simp only [exec, execJz, jzHandler, h, endHandler_error]

theorem exec_halt (o : Operand) (s : State) : exec (.halt o) s = .next (s.setStatus .halted).advance :=
  rfl

/-- The bare OUTPUT is the one whose fields say that there is no operand, none of them stray. -/
theorem isBareOutput_iff (o : Operand) : isBareOutput o = true ↔ o = ⟨.none, .acc, 0⟩ := by
  obtain ⟨m, r, n⟩ := o
  simp [isBareOutput]

/-- OUTPUT without an operand resolves nothing. -/
theorem outputHandler_bare (s : State) :
    outputHandler ⟨.none, .acc, 0⟩ s = .ok (⟨none, s.acc, s.r1, s.r2, none⟩, s.advance) :=
  rfl

theorem outputHandler_of_denotes {o : Operand} {s : State} {v : Value} (h : Denotes s o v) :
    outputHandler o s = .ok (⟨some o, s.acc, s.r1, s.r2, some v⟩, s.advance) := by
  have hbare : ¬ isBareOutput o = true := by
    rw [isBareOutput_iff]
    rintro rfl
    cases h
  rw [outputHandler, if_neg hbare]
  simp only [resolveRead_of_denotes h]

theorem outputHandler_of_readFault {o : Operand} {s : State} {e : Raise} (hne : o ≠ ⟨.none, .acc, 0⟩)
    (h : ReadFault s o e) : outputHandler o s = .error e := by
  rw [outputHandler, if_neg ((isBareOutput_iff o).not.2 hne)]
  simp only [resolveRead_of_readFault h]

/-- An OUTPUT that completes leaves the advanced state and emits its record. -/
theorem exec_output_of_ok {o : Operand} {s : State} {r : OutputRecord} (h : outputHandler o s = .ok (r, s.advance)) :
    exec (.output o) s = .next s.advance ∧ outputRecord o s = some r := by
  constructor
  · simp only [exec, execOutput, h, Except.map, endHandler]
  · simp only [outputRecord, h]

/-- A faulting OUTPUT emits nothing (43_output.md R140). -/
theorem exec_output_of_error {o : Operand} {s : State} {e : Raise} (h : outputHandler o s = .error e) :
    exec (.output o) s = .next (s.faultedAt (.output o) e) ∧ outputRecord o s = none := by
  constructor
  · simp only [exec, execOutput, h, Except.map, endHandler_error]
  · simp only [outputRecord, h]

/-- Settles O28: the handler's two ends, with the read path's relations. -/
theorem loadResult : Obligations.LoadResult := fun _ _ =>
  ⟨fun _ hv => exec_load_of_resolveRead (resolveRead_of_denotes hv),
    fun _ he => exec_load_of_error (resolveRead_of_readFault he)⟩

/-- Settles O29: the handler's two ends, with the write path's relations; ACC is the value written. -/
theorem storeResult : Obligations.StoreResult := by
  intro o s
  refine ⟨fun r hr => ?_, fun a ha hin => ?_, fun e he => ?_⟩
  · have hwrite := resolveWrite_of_destReg hr s.acc s
    rw [exec_store_of_resolveWrite hwrite, State.advance, regWrite_pc]
    rfl
  · have hwrite : resolveWrite o s.acc s = .ok (s.setMem (s.mem.put a.toNat s.acc)) := by
      rw [resolveWrite_of_destCell ha, memWrite_of_inRange hin]
    exact exec_store_of_resolveWrite hwrite
  · exact exec_store_of_resolveWrite_error (resolveWrite_of_writeFault he s.acc)

/-- Settles O31: the handlers' two ends, with the read path's relations. -/
theorem addSubResult : Obligations.AddSubResult := fun _ _ =>
  ⟨fun _ hv => ⟨exec_add_of_resolveRead (resolveRead_of_denotes hv), exec_sub_of_resolveRead (resolveRead_of_denotes hv)⟩,
    fun _ he => ⟨exec_add_of_error (resolveRead_of_readFault he), exec_sub_of_error (resolveRead_of_readFault he)⟩⟩

/-- Settles O32: (ACC + v) - v = ACC on unbounded integers, and PC has advanced twice. -/
theorem addThenSubRestoresAcc : Obligations.AddThenSubRestoresAcc := by
  intro o o' v s t hv hadd hv'
  obtain rfl : (s.setAcc (s.acc + v)).advance = t := by
    rw [exec_add_of_resolveRead (resolveRead_of_denotes hv)] at hadd
    injection hadd
  rw [exec_sub_of_resolveRead (resolveRead_of_denotes hv'), State.advance_acc, State.setAcc_acc, add_sub_cancel_right]
  rfl

/-- Settles O33: the bare form, the valued form and the fault are the three ends of the handler. -/
theorem outputResult : Obligations.OutputResult := by
  intro o s
  refine ⟨?_, fun v hv => exec_output_of_ok (outputHandler_of_denotes hv),
    fun e hne he => exec_output_of_error (outputHandler_of_readFault hne he)⟩
  rintro rfl
  exact exec_output_of_ok (outputHandler_bare s)

/-- Settles O34: the target is the payload itself; no register and no cell is read. -/
theorem jmpResult : Obligations.JmpResult := fun s =>
  ⟨fun t => exec_jmp_of_branchTarget (branchTarget_dir t) s, fun _ _ he => exec_jmp_of_error (branchTarget_of_targetFault he) s⟩

/-- Settles O35: the target is evaluated before the condition, so a bad operand faults whatever ACC is. -/
theorem jzResult : Obligations.JzResult := by
  intro s
  refine ⟨fun t => ?_, fun _ _ he => exec_jz_of_error (branchTarget_of_targetFault he) s⟩
  rw [exec_jz_of_branchTarget (branchTarget_dir t)]
  split <;> rfl

/-- Settles O36: the handler of HALT looks at nothing. -/
theorem haltResult : Obligations.HaltResult :=
  exec_halt

end Sys2Proof.Machine
end

section
/-! PROOFS. What an instruction can do, over all instructions (10_state.md R28, 60_exceptions.md R212 to R216): it completes, and then
ERR and STEP stay, or it takes the fault entry for an error of its own operand path. -/

namespace Sys2Proof.Machine

/-- The errors an instruction can raise at a state: those of the one path its operand takes. -/
def InstrFault (s : State) : Instr → Raise → Prop
  | .load o, e => ReadFault s o e
  | .store o, e => WriteFault s o e
  | .add o, e => ReadFault s o e
  | .sub o, e => ReadFault s o e
  | .output o, e => o ≠ ⟨.none, .acc, 0⟩ ∧ ReadFault s o e
  | .jmp o, e => TargetFault o e
  | .jz o, e => TargetFault o e
  | .halt _, _ => False

/-- What holds between the states before and after an instruction that raised nothing: STATUS moves only by HALT, and ERR and
STEP do not move. -/
def Completes (s : State) (i : Instr) (t : State) : Prop :=
  t.err = s.err ∧ t.step = s.step ∧
    ((t.status = s.status ∧ ∀ o, i ≠ .halt o) ∨ (t.status = .halted ∧ ∃ o, i = .halt o))

theorem completes_of_status_eq {s t : State} {i : Instr} (herr : t.err = s.err) (hstep : t.step = s.step)
    (hstatus : t.status = s.status) (hi : ∀ o, i ≠ .halt o) : Completes s i t :=
  ⟨herr, hstep, .inl ⟨hstatus, hi⟩⟩

/-- Every instruction has a next state: the fault entry for an error of its operand, or a completion. -/
theorem exec_faults_or_completes (i : Instr) (s : State) :
    (∃ e, InstrFault s i e ∧ exec i s = .next (s.faultedAt i e)) ∨ ∃ t, exec i s = .next t ∧ Completes s i t := by
  cases i with
  | load o =>
    rcases denotes_or_readFault o s with ⟨v, hv⟩ | ⟨e, he⟩
    · exact .inr ⟨_, exec_load_of_resolveRead (resolveRead_of_denotes hv), completes_of_status_eq rfl rfl rfl (by simp)⟩
    · exact .inl ⟨e, he, exec_load_of_error (resolveRead_of_readFault he)⟩
  | store o =>
    rcases writeResult_or_writeFault o s.acc s with ⟨t, ht⟩ | ⟨e, he⟩
    · refine .inr ⟨_, exec_store_of_resolveWrite (resolveWrite_of_writeResult ht), ?_⟩
      rcases ht with ⟨r, -, rfl⟩ | ⟨a, -, -, rfl⟩
      · exact completes_of_status_eq (regWrite_err r _ s) (regWrite_step r _ s) (regWrite_status r _ s) (by simp)
      · exact completes_of_status_eq rfl rfl rfl (by simp)
    · exact .inl ⟨e, he, exec_store_of_resolveWrite_error (resolveWrite_of_writeFault he s.acc)⟩
  | add o =>
    rcases denotes_or_readFault o s with ⟨v, hv⟩ | ⟨e, he⟩
    · exact .inr ⟨_, exec_add_of_resolveRead (resolveRead_of_denotes hv), completes_of_status_eq rfl rfl rfl (by simp)⟩
    · exact .inl ⟨e, he, exec_add_of_error (resolveRead_of_readFault he)⟩
  | sub o =>
    rcases denotes_or_readFault o s with ⟨v, hv⟩ | ⟨e, he⟩
    · exact .inr ⟨_, exec_sub_of_resolveRead (resolveRead_of_denotes hv), completes_of_status_eq rfl rfl rfl (by simp)⟩
    · exact .inl ⟨e, he, exec_sub_of_error (resolveRead_of_readFault he)⟩
  | output o =>
    have hcompletes : Completes s (.output o) s.advance := completes_of_status_eq rfl rfl rfl (by simp)
    by_cases hbare : o = ⟨.none, .acc, 0⟩
    · subst hbare
      exact .inr ⟨_, (exec_output_of_ok (outputHandler_bare s)).1, hcompletes⟩
    rcases denotes_or_readFault o s with ⟨v, hv⟩ | ⟨e, he⟩
    · exact .inr ⟨_, (exec_output_of_ok (outputHandler_of_denotes hv)).1, hcompletes⟩
    · exact .inl ⟨e, ⟨hbare, he⟩, (exec_output_of_error (outputHandler_of_readFault hbare he)).1⟩
  | jmp o =>
    rcases target_or_targetFault o with ⟨t, rfl⟩ | ⟨e, he⟩
    · exact .inr ⟨_, exec_jmp_of_branchTarget (branchTarget_dir t) s, completes_of_status_eq rfl rfl rfl (by simp)⟩
    · exact .inl ⟨e, he, exec_jmp_of_error (branchTarget_of_targetFault he) s⟩
  | jz o =>
    rcases target_or_targetFault o with ⟨t, rfl⟩ | ⟨e, he⟩
    · refine .inr ⟨_, exec_jz_of_branchTarget (branchTarget_dir t) s, ?_⟩
      split <;> exact completes_of_status_eq rfl rfl rfl (by simp)
    · exact .inl ⟨e, he, exec_jz_of_error (branchTarget_of_targetFault he) s⟩
  | halt o => exact .inr ⟨_, exec_halt o s, rfl, rfl, .inr ⟨rfl, o, rfl⟩⟩

/-- The same, for a given next state. -/
theorem faultedAt_or_completes {i : Instr} {s t : State} (h : exec i s = .next t) :
    (∃ e, InstrFault s i e ∧ t = s.faultedAt i e) ∨ Completes s i t := by
  rcases exec_faults_or_completes i s with ⟨e, he, hx⟩ | ⟨u, hx, hu⟩
  · rw [hx] at h
    cases h
    exact .inl ⟨e, he, rfl⟩
  · rw [hx] at h
    cases h
    exact .inr hu

/-- STEP is the loop's: no instruction counts itself. -/
theorem exec_step {i : Instr} {s t : State} (h : exec i s = .next t) : t.step = s.step := by
  rcases faultedAt_or_completes h with ⟨e, -, rfl⟩ | ⟨-, hstep, -⟩
  · rfl
  · exact hstep

/-- Settles O37: the fault entry is a next state, and so is a completion. -/
theorem everyInstructionHasANextState : Obligations.EveryInstructionHasANextState := by
  intro i s
  rcases exec_faults_or_completes i s with ⟨e, -, hx⟩ | ⟨t, hx, -⟩
  · exact ⟨_, hx⟩
  · exact ⟨t, hx⟩

/-- A STORE writes the cell its operand names, if that is in range, and no memory otherwise. -/
theorem exec_store_mem {o : Operand} {s t : State} (h : exec (.store o) s = .next t) :
    (∃ a, DestCell s o a ∧ s.mem.inRange a ∧ t.mem = s.mem.put a.toNat s.acc)
      ∨ ((¬ ∃ a, DestCell s o a ∧ s.mem.inRange a) ∧ t.mem = s.mem) := by
  obtain ⟨hstoreReg, hstoreCell, hstoreFault⟩ := storeResult o s
  by_cases hcell : ∃ a, DestCell s o a ∧ s.mem.inRange a
  · obtain ⟨a, ha, hin⟩ := hcell
    rw [hstoreCell a ha hin] at h
    cases h
    exact .inl ⟨a, ha, hin, rfl⟩
  · refine .inr ⟨hcell, ?_⟩
    rcases writeResult_or_writeFault o s.acc s with ⟨u, ⟨r, hr, rfl⟩ | ⟨a, ha, hin, -⟩⟩ | ⟨e, he⟩
    · rw [hstoreReg r hr] at h
      cases h
      exact regWrite_mem r s.acc s
    · exact absurd ⟨a, ha, hin⟩ hcell
    · rw [hstoreFault e he] at h
      cases h
      rfl

/-- A read of memory sees nothing of the state but MEM. -/
theorem memRead_congr {s t : State} (h : t.mem = s.mem) (b : Int) : memRead b t = memRead b s := by
  rw [memRead, memRead, h]

/-- An operand names at most one memory destination. -/
theorem destCell_unique {s : State} {o : Operand} {a b : Int} (ha : DestCell s o a) (hb : DestCell s o b) : a = b := by
  cases ha <;> cases hb <;> rfl

/-- Settles O30: memory after a STORE is `put` at the one address that the operand names, or memory as it was. -/
theorem storeMemoryFrame : Obligations.StoreMemoryFrame := by
  intro o s t h
  rcases exec_store_mem h with ⟨a, ha, hin, hmem⟩ | ⟨hnone, hmem⟩
  · have hread : ∀ b, memRead b t = memRead b (s.setMem (s.mem.put a.toNat s.acc)) := memRead_congr hmem
    refine ⟨fun a' ha' => ?_, fun hnone => absurd ⟨a, ha, hin⟩ hnone⟩
    obtain rfl := destCell_unique ha ha'
    exact ⟨fun _ => (hread a).trans (memRead_setMem_put_same hin s.acc),
      fun b hb => (hread b).trans (memRead_setMem_put_of_ne hin hb s.acc)⟩
  · have hread : ∀ b, memRead b t = memRead b s := memRead_congr hmem
    exact ⟨fun a ha => ⟨fun hin => absurd ⟨a, ha, hin⟩ hnone, fun b _ => hread b⟩, fun _ => hread⟩

/-- ACC moves only by LOAD, ADD and SUB: STORE writes ACC to where its operand says, ACC itself included. -/
theorem exec_changes_acc {i : Instr} {s t : State} (h : exec i s = .next t) (hne : t.acc ≠ s.acc) :
    ∃ o, i = .load o ∨ i = .add o ∨ i = .sub o := by
  rcases exec_cases h with ⟨e, rfl⟩ | ⟨o, v, rfl, -, -⟩ | ⟨o, u, -, hw, rfl⟩ | ⟨o, v, rfl, -, -⟩ | ⟨o, v, rfl, -, -⟩ |
    ⟨o, -, rfl⟩ | ⟨o, n, -, -, rfl⟩ | ⟨o, n, -, -, rfl⟩ | ⟨o, -, rfl⟩
  · simp at hne
  · exact ⟨o, .inl rfl⟩
  · rcases (resolveWrite_ok_iff o s.acc s u).1 hw with ⟨r, -, rfl⟩ | ⟨a, -, -, rfl⟩
    · cases r <;> exact absurd rfl hne
    · exact absurd rfl hne
  · exact ⟨o, .inr (.inl rfl)⟩
  · exact ⟨o, .inr (.inr rfl)⟩
  · simp at hne
  · simp at hne
  · split at hne <;> simp at hne
  · simp at hne

/-- MEM moves only by STORE. -/
theorem exec_changes_mem {i : Instr} {s t : State} (h : exec i s = .next t) (hne : t.mem ≠ s.mem) : ∃ o, i = .store o := by
  rcases exec_cases h with ⟨e, rfl⟩ | ⟨o, v, -, -, rfl⟩ | ⟨o, u, rfl, -, -⟩ | ⟨o, v, -, -, rfl⟩ | ⟨o, v, -, -, rfl⟩ |
    ⟨o, -, rfl⟩ | ⟨o, n, -, -, rfl⟩ | ⟨o, n, -, -, rfl⟩ | ⟨o, -, rfl⟩
  · simp at hne
  · simp at hne
  · exact ⟨o, rfl⟩
  · simp at hne
  · simp at hne
  · simp at hne
  · simp at hne
  · split at hne <;> simp at hne
  · simp at hne

/-- Settles O38: ACC and MEM by the instruction's effect, STATUS, ERR and STEP by the fault entry or the completion. -/
theorem whatEachInstructionMayWrite : Obligations.WhatEachInstructionMayWrite := by
  intro i s t h
  refine ⟨exec_changes_acc h, fun hmem => ?_, ?_⟩
  · obtain ⟨o, rfl⟩ := exec_changes_mem h hmem
    rcases exec_store_mem h with ⟨a, ha, hin, -⟩ | ⟨-, hsame⟩
    · obtain ⟨hcell, -⟩ := storeMemoryFrame o s t h
      obtain ⟨-, hothers⟩ := hcell a ha
      exact ⟨o, a, rfl, ha, hin, hothers⟩
    · exact absurd hsame hmem
  · rcases faultedAt_or_completes h with ⟨e, -, rfl⟩ | ⟨herr, hstep, ⟨hstatus, -⟩ | ⟨hhalt, hi⟩⟩
    · exact ⟨fun _ => .inl rfl, fun _ => rfl, rfl⟩
    · exact ⟨fun hne => absurd hstatus hne, fun hne => absurd herr hne, hstep⟩
    · exact ⟨fun _ => .inr ⟨hhalt, hi⟩, fun hne => absurd herr hne, hstep⟩

end Sys2Proof.Machine
end

section
/-! PROOFS. One pass of the loop (47_execution_loop.md R162 to R172): an equation for each of its ends, and what its next state can be. -/

namespace Sys2Proof.Machine

theorem fetch_eq_none_iff (s : State) : fetch s = none ↔ s.prog.length ≤ s.pc :=
  List.getElem?_eq_none_iff

theorem pc_lt_of_fetch {s : State} {d : Decoded} (h : fetch s = some d) : s.pc < s.prog.length :=
  (List.getElem?_eq_some_iff.1 h).1

/-- Exhaustion: the pass halts and emits nothing (R170). -/
theorem loopPass_of_exhausted {s : State} (hs : s.status = .running) (hf : fetch s = none) (c : Nat) :
    loopPass c s = .next (s.setStatus .halted) ∧ passRecords c s = [] := by
  simp only [loopPass, passRecords, hs, hf, and_self]

/-- The ceiling: the pass faults and emits nothing (R171). -/
theorem loopPass_of_ceiling {s : State} {d : Decoded} {c : Nat} (hs : s.status = .running) (hf : fetch s = some d)
    (hc : s.step = c) :
    loopPass c s = .next (faultEntry ⟨.stepLimitExceeded, none⟩ s.pc none s) ∧ passRecords c s = [] := by
  simp only [loopPass, passRecords, hs, hf, if_pos hc, and_self]

/-- Below the ceiling the pass is one step on the fetched instruction (R163). -/
theorem loopPass_of_fetch {s : State} {d : Decoded} {c : Nat} (hs : s.status = .running) (hf : fetch s = some d)
    (hc : s.step ≠ c) : loopPass c s = stepOn d s ∧ passRecords c s = stepRecords d s := by
  simp only [loopPass, passRecords, hs, hf, if_neg hc, and_self]

theorem stepOn_of_dispatch {d : Decoded} {s t : State} (h : dispatch d s = .next t) : stepOn d s = .next (countStep t) := by
  simp only [stepOn, h]

theorem loopPass_of_not_running {s : State} (hs : s.status ≠ .running) (c : Nat) : loopPass c s = .fault .notRunning := by
  unfold loopPass
  cases h : s.status with
  | running => exact absurd h hs
  | idle | halted | faulted => rfl

/-- Every fetched instruction is dispatched to a next state, an unknown one to its fault entry. -/
theorem dispatch_total (d : Decoded) (s : State) : ∃ t, dispatch d s = .next t := by
  cases d with
  | known i => exact everyInstructionHasANextState i s
  | unknown k o => exact ⟨_, rfl⟩

theorem loopPass_total {s : State} (hs : s.status = .running) (c : Nat) : ∃ t, loopPass c s = .next t := by
  cases hf : fetch s with
  | none => exact ⟨_, (loopPass_of_exhausted hs hf c).1⟩
  | some d =>
    by_cases hc : s.step = c
    · exact ⟨_, (loopPass_of_ceiling hs hf hc).1⟩
    · obtain ⟨t, ht⟩ := dispatch_total d s
      exact ⟨_, (loopPass_of_fetch hs hf hc).1.trans (stepOn_of_dispatch ht)⟩

/-- The kinds an operand can raise: not those of the opcode, of run entry and of the ceiling. -/
def OperandErr (k : ErrKind) : Prop :=
  k = .unsupportedAddressingMode ∨ k = .invalidDestination ∨ k = .malformedOperand ∨ k = .outOfRangeAddress

theorem staticError_kind {o : Operand} {k : ErrKind} (h : StaticError o k) : OperandErr k := by
  cases h <;> simp [OperandErr]

theorem readFault_kind {s : State} {o : Operand} {e : Raise} (h : ReadFault s o e) : OperandErr e.kind := by
  cases h with
  | static _ _ hk => exact staticError_kind hk
  | absent => simp [OperandErr]
  | indFirst | indSecond | rel | idxR1 | idxR2 | dir => simp [OperandErr]

theorem writeFault_kind {s : State} {o : Operand} {e : Raise} (h : WriteFault s o e) : OperandErr e.kind := by
  cases h with
  | static _ _ hk => exact staticError_kind hk
  | absent | readOnly | cell => simp [OperandErr]

theorem targetFault_kind {o : Operand} {e : Raise} (h : TargetFault o e) : OperandErr e.kind := by
  cases h with
  | static _ _ hk => exact staticError_kind hk
  | notBare | negative => simp [OperandErr]

theorem instrFault_kind {s : State} {i : Instr} {e : Raise} (h : InstrFault s i e) : OperandErr e.kind := by
  cases i with
  | load o | add o | sub o => exact readFault_kind h
  | store o => exact writeFault_kind h
  | output o => exact readFault_kind h.2
  | jmp o | jz o => exact targetFault_kind h
  | halt o => exact h.elim

/-- A pass that took the fault entry: a report at the PC there is, never one of run entry, and nothing else but STATUS. -/
def PassFaults (s t : State) : Prop :=
  ∃ r : ErrReport, r.pc = s.pc ∧ r.kind ≠ .emptyProgram ∧ t = { s with status := .faulted, err := some r }

/-- A pass that completed a step: the fetched instruction raised nothing, and STEP counts it. -/
def PassCompletes (c : Nat) (s t : State) : Prop :=
  ∃ i u, fetch s = some (.known i) ∧ s.step ≠ c ∧ exec i s = .next u ∧ Completes s i u ∧ t = u.setStep (s.step + 1)

theorem status_ne_faulted_of_completes {s t : State} {i : Instr} (hs : s.status = .running) (h : Completes s i t) :
    t.status ≠ .faulted := by
  obtain ⟨-, -, ⟨hstatus, -⟩ | ⟨hstatus, -⟩⟩ := h
  · rw [hstatus, hs]
    decide
  · rw [hstatus]
    decide

theorem countStep_of_completes {s t : State} {i : Instr} (hs : s.status = .running) (h : Completes s i t) :
    countStep t = t.setStep (s.step + 1) := by
  have hok := status_ne_faulted_of_completes hs h
  obtain ⟨-, hstep, -⟩ := h
  rw [countStep, if_neg hok, hstep]

/-- The three ends of a pass: exhaustion, the fault entry, a completed step. -/
theorem loopPass_ends {c : Nat} {s t : State} (h : loopPass c s = .next t) :
    s.status = .running ∧
      ((fetch s = none ∧ t = s.setStatus .halted) ∨ (fetch s ≠ none ∧ PassFaults s t) ∨ PassCompletes c s t) := by
  obtain ⟨hs, ⟨hf, rfl⟩ | ⟨d, hf, -, rfl⟩ | ⟨k, o, hf, -, rfl⟩ | ⟨i, u, hf, hc, hx, rfl⟩⟩ := loopPass_cases h
  · exact ⟨hs, .inl ⟨hf, rfl⟩⟩
  · exact ⟨hs, .inr (.inl ⟨by simp [hf], _, rfl, by simp, rfl⟩)⟩
  · exact ⟨hs, .inr (.inl ⟨by simp [hf], _, rfl, by simp, rfl⟩)⟩
  · rcases faultedAt_or_completes hx with ⟨e, he, rfl⟩ | hu
    · have hkind : e.kind ≠ .emptyProgram := by
        rcases instrFault_kind he with hk | hk | hk | hk <;> simp [hk]
      have hcount : countStep (s.faultedAt i e) = s.faultedAt i e := if_pos rfl
      exact ⟨hs, .inr (.inl ⟨by simp [hf], _, rfl, hkind, hcount⟩)⟩
    · exact ⟨hs, .inr (.inr ⟨i, u, hf, hc, hx, hu, countStep_of_completes hs hu⟩)⟩

/-- Settles O40: below the ceiling the pass is dispatch, and dispatch of a known instruction is `exec`. -/
theorem stepRunsTheFetchedInstruction : Obligations.StepRunsTheFetchedInstruction := by
  intro i s t hs hf hc hx
  exact (loopPass_of_fetch hs hf hc).1.trans (stepOn_of_dispatch hx)

/-- MAX_STEPS is positive, so no run is at the ceiling before its first step. -/
theorem zero_ne_maxSteps : 0 ≠ Config.maxSteps :=
  (Nat.succ_ne_zero Config.maxStepsLessOne).symm

/-- A step on an unknown opcode is its fault entry, which is not counted. -/
theorem loopPass_of_unknown {s : State} {k : Nat} {o : Operand} {c : Nat} (hs : s.status = .running)
    (hf : fetch s = some (.unknown k o)) (hc : s.step ≠ c) :
    loopPass c s = .next (faultEntry ⟨.unknownOpcode, some k⟩ s.pc (some (.unknown k o)) s) := by
  rw [(loopPass_of_fetch hs hf hc).1, stepOn_of_dispatch rfl, countStep_faultEntry]

/-- What is not an instruction of the table decodes to an unknown opcode. -/
theorem decodeStored_of_decodeTableWord_none {nbits w : Nat} (h : decodeTableWord nbits w = none) :
    ∃ k o, decodeStored nbits w = .unknown k o := by
  cases hd : decodeStored nbits w with
  | known i => simp [decodeTableWord, hd] at h
  | unknown k o => exact ⟨k, o, rfl⟩

theorem decodeStored_of_decodeTableWord_some {nbits w : Nat} {i : Instr} (h : decodeTableWord nbits w = some i) :
    decodeStored nbits w = .known i := by
  cases hd : decodeStored nbits w with
  | known j => simpa [decodeTableWord, hd] using h
  | unknown k o => simp [decodeTableWord, hd] at h

/-- The word that is placed is the one fetched. -/
theorem fetch_withFetchWord (s : State) (nbits w : Nat) : fetch (s.withFetchWord nbits w) = some (decodeStored nbits w) :=
  rfl

/-- Settles O41: the machine is Running at PC = 0, STEP = 0 with the decoded word at index 0. -/
theorem fetchWordRunsNext : Obligations.FetchWordRunsNext := by
  intro s nbits w
  have hf := fetch_withFetchWord s nbits w
  constructor
  · intro i t hi hx
    rw [decodeStored_of_decodeTableWord_some hi] at hf
    exact stepRunsTheFetchedInstruction i _ t rfl hf zero_ne_maxSteps hx
  · intro hnone
    obtain ⟨k, o, hd⟩ := decodeStored_of_decodeTableWord_none hnone
    rw [hd] at hf
    refine ⟨_, k, loopPass_of_unknown rfl hf zero_ne_maxSteps, rfl, ?_, rfl, rfl⟩
    rw [hd]
    rfl

/-- Settles O42: nothing is fetched, and the pass tests that first. -/
theorem exhaustionEndsHalted : Obligations.ExhaustionEndsHalted := by
  intro c s hs hlen
  have hf := (fetch_eq_none_iff s).2 hlen
  exact ⟨(loopPass_of_exhausted hs hf c).1, (loopPass_of_exhausted hs hf c).2,
    (loopPass_of_exhausted hs hf Config.maxSteps).1⟩

/-- Settles O43: something is fetched, and the ceiling is tested before it runs. -/
theorem ceilingEndsFaulted : Obligations.CeilingEndsFaulted := fun _ _ hs hlt hc =>
  loopPass_of_ceiling hs (List.getElem?_eq_getElem hlt) hc

/-- Settles O44: the unknown opcode by dispatch; an instruction of the eight raises only the errors of its operand. -/
theorem unknownOpcodeFaults : Obligations.UnknownOpcodeFaults := by
  refine ⟨fun k o s hs hf hc => loopPass_of_unknown hs hf hc, fun i s t r hx hr hkind => ?_⟩
  rcases faultedAt_or_completes hx with ⟨e, he, rfl⟩ | ⟨herr, -, -⟩
  · cases hr
    rcases instrFault_kind he with hk | hk | hk | hk <;> rw [hk] at hkind <;> cases hkind
  · rw [← herr, hr]

/-- Settles O49: `loopPass` has a next state exactly while Running. -/
theorem noTransitionUnlessRunning : Obligations.NoTransitionUnlessRunning := fun _ =>
  ⟨fun hs => loopPass_of_not_running hs _, fun hs => loopPass_total hs _⟩

end Sys2Proof.Machine
end

section
/-! PROOFS. What a step does to the control state: the invariant, ERR, STEP, PC and STATUS, each from the three ends of a pass. -/

namespace Sys2Proof.Machine

/-- An instruction keeps the canonical form of MEM: it writes a cell in range, or none. -/
theorem exec_mem_wf {i : Instr} {s t : State} (h : exec i s = .next t) (hwf : s.mem.wf) : t.mem.wf := by
  by_cases hmem : t.mem = s.mem
  · rw [hmem]
    exact hwf
  · obtain ⟨o, rfl⟩ := exec_changes_mem h hmem
    rcases exec_store_mem h with ⟨a, -, ⟨hlo, hhi⟩, hput⟩ | ⟨-, hsame⟩
    · have hcell : a.toNat < s.mem.size := by omega
      rw [hput]
      exact Memory.put_wf hwf hcell s.acc
    · exact absurd hsame hmem

/-- A machine that is not Faulted and meets the invariant holds no report. -/
theorem err_none_of_inv {c : Nat} {s : State} (hinv : s.InvUnder c) (hs : s.status ≠ .faulted) : s.err = none := by
  obtain ⟨-, herr, -⟩ := hinv
  rw [← Option.not_isSome_iff_eq_none, herr]
  exact hs

/-- A pass keeps the invariant of its ceiling: a completed step starts below the ceiling, so its count is within it. -/
theorem loopPass_inv {c : Nat} {s t : State} (hinv : s.InvUnder c) (h : loopPass c s = .next t) : t.InvUnder c := by
  obtain ⟨hs, hend⟩ := loopPass_ends h
  have hrunning : s.status ≠ .faulted := by rw [hs]; decide
  have hnone : s.err = none := err_none_of_inv hinv hrunning
  obtain ⟨hmem, -, hle⟩ := hinv
  rcases hend with ⟨-, rfl⟩ | ⟨-, r, -, -, rfl⟩ | ⟨i, u, -, hc, hx, hu, rfl⟩
  · exact ⟨hmem, by simp [hnone], hle⟩
  · exact ⟨hmem, by simp, hle⟩
  · have hstatus := status_ne_faulted_of_completes hs hu
    obtain ⟨herr', -, -⟩ := hu
    have herr : u.err = none := herr'.trans hnone
    refine ⟨?_, by simp [herr, hstatus], ?_⟩
    · rw [State.setStep_mem]
      exact exec_mem_wf hx hmem
    · rw [State.setStep_step]
      omega

/-- Settles O12: the step is a pass under MAX_STEPS. -/
theorem stepKeepsInv : Obligations.StepKeepsInv := fun _ _ =>
  loopPass_inv

/-- Settles O45: of the three ends of a pass only the fault entry ends Faulted. -/
theorem faultsArePrecise : Obligations.FaultsArePrecise := by
  intro s t h hfaulted
  obtain ⟨hs, ⟨-, rfl⟩ | ⟨-, r, hpc, -, rfl⟩ | ⟨i, u, -, -, -, hu, rfl⟩⟩ := loopPass_ends h
  · cases hfaulted
  · exact ⟨r, hpc, rfl⟩
  · rw [State.setStep_status] at hfaulted
    exact absurd hfaulted (status_ne_faulted_of_completes hs hu)

/-- Settles O46: only the completed step counts. -/
theorem stepCountsCompletedSteps : Obligations.StepCountsCompletedSteps := by
  intro s t h
  obtain ⟨hs, ⟨hf, rfl⟩ | ⟨-, r, -, -, rfl⟩ | ⟨i, u, hf, -, -, hu, rfl⟩⟩ := loopPass_ends h
  · rw [if_pos (.inr ((fetch_eq_none_iff s).1 hf)), State.setStatus_step]
  · exact (if_pos (.inl rfl)).symm
  · have hlt := pc_lt_of_fetch hf
    rw [State.setStep_step, State.setStep_status,
      if_neg (not_or.2 ⟨status_ne_faulted_of_completes hs hu, not_le.2 hlt⟩)]

theorem exec_jmp_pc {o : Operand} {s t : State} (h : exec (.jmp o) s = .next t) (hok : t.status ≠ .faulted) :
    (t.pc : Int) = o.n := by
  rcases target_or_targetFault o with ⟨n, rfl⟩ | ⟨e, he⟩
  · rw [exec_jmp_of_branchTarget (branchTarget_dir n)] at h
    cases h
    rfl
  · rw [exec_jmp_of_error (branchTarget_of_targetFault he)] at h
    cases h
    exact absurd rfl hok

theorem exec_jz_pc {o : Operand} {s t : State} (h : exec (.jz o) s = .next t) (hok : t.status ≠ .faulted) :
    (s.acc = 0 → (t.pc : Int) = o.n) ∧ (s.acc ≠ 0 → t.pc = s.pc + 1) := by
  rcases target_or_targetFault o with ⟨n, rfl⟩ | ⟨e, he⟩
  · rw [exec_jz_of_branchTarget (branchTarget_dir n)] at h
    cases h
    refine ⟨fun hz => ?_, fun hz => ?_⟩
    · rw [if_pos hz, State.setPc_pc]
    · rw [if_neg hz, State.advance_pc]
  · rw [exec_jz_of_error (branchTarget_of_targetFault he)] at h
    cases h
    exact absurd rfl hok

/-- Every instruction but the two branches advances PC when it completes. -/
theorem exec_pc_of_not_branch {i : Instr} {s t : State} (h : exec i s = .next t) (hok : t.status ≠ .faulted)
    (hi : ∀ o, i ≠ .jmp o ∧ i ≠ .jz o) : t.pc = s.pc + 1 := by
  rcases exec_cases h with ⟨e, rfl⟩ | ⟨o, v, -, -, rfl⟩ | ⟨o, u, -, hw, rfl⟩ | ⟨o, v, -, -, rfl⟩ | ⟨o, v, -, -, rfl⟩ |
    ⟨o, -, rfl⟩ | ⟨o, n, rfl, -, -⟩ | ⟨o, n, rfl, -, -⟩ | ⟨o, -, rfl⟩
  · exact absurd rfl hok
  · rfl
  · rcases (resolveWrite_ok_iff o s.acc s u).1 hw with ⟨r, -, rfl⟩ | ⟨a, -, -, rfl⟩
    · rw [State.advance_pc, regWrite_pc]
    · rfl
  · rfl
  · rfl
  · rfl
  · exact absurd rfl (hi o).1
  · exact absurd rfl (hi o).2
  · rfl

/-- Settles O47: the fault entry and exhaustion keep PC; a completed step leaves the PC of its instruction. -/
theorem pcUpdatePolicy : Obligations.PcUpdatePolicy := by
  intro s t h
  obtain ⟨hs, ⟨hf, rfl⟩ | ⟨-, r, -, -, rfl⟩ | ⟨i, u, hf, -, hx, hu, rfl⟩⟩ := loopPass_ends h
  · refine ⟨fun _ => rfl, fun i hi _ => ?_⟩
    rw [fetch, hi] at hf
    cases hf
  · exact ⟨fun _ => rfl, fun i _ hok => absurd rfl hok⟩
  · have hok := status_ne_faulted_of_completes hs hu
    have hlt := pc_lt_of_fetch hf
    simp only [State.setStep_pc, State.setStep_status]
    refine ⟨fun hstop => ?_, fun j hj _ => ?_⟩
    · rcases hstop with hfault | hlen
      · exact absurd hfault hok
      · exact absurd hlen (not_le.2 hlt)
    · obtain rfl : i = j := by
        rw [fetch, hj] at hf
        cases hf
        rfl
      refine ⟨?_, ?_, exec_pc_of_not_branch hx hok⟩
      · rintro o rfl
        exact exec_jmp_pc hx hok
      · rintro o rfl
        exact exec_jz_pc hx hok

/-- A HALT below the ceiling is a completed step that ends Halted. -/
theorem loopPass_of_halt {s : State} {o : Operand} {c : Nat} (hs : s.status = .running)
    (hf : fetch s = some (.known (.halt o))) (hc : s.step ≠ c) :
    loopPass c s = .next ((s.setStatus .halted).advance.setStep (s.step + 1)) := by
  have hdispatch : dispatch (.known (.halt o)) s = .next (s.setStatus .halted).advance := exec_halt o s
  rw [(loopPass_of_fetch hs hf hc).1, stepOn_of_dispatch hdispatch]
  rfl

/-- Settles O48: exhaustion halts, the fault entry does not, and a completed step halts exactly when it is HALT's. -/
theorem statusTransitions : Obligations.StatusTransitions := by
  intro s t h
  obtain ⟨hs, hend⟩ := loopPass_ends h
  have hhalts : (s.prog.length ≤ s.pc ∨ (s.step ≠ Config.maxSteps ∧ ∃ o, s.prog[s.pc]? = some (.known (.halt o)))) →
      t.status = .halted := by
    rintro (hlen | ⟨hc, o, hf⟩)
    · have hpass := (loopPass_of_exhausted hs ((fetch_eq_none_iff s).2 hlen) Config.maxSteps).1
      obtain rfl : s.setStatus .halted = t := by
        rw [step, hpass] at h
        injection h
      rfl
    · obtain rfl : (s.setStatus .halted).advance.setStep (s.step + 1) = t := by
        rw [step, loopPass_of_halt hs hf hc] at h
        injection h
      rfl
  rcases hend with ⟨hf, rfl⟩ | ⟨-, r, -, -, rfl⟩ | ⟨i, u, hf, hc, -, hu, rfl⟩
  · exact ⟨hs, by simp, fun _ => .inl ((fetch_eq_none_iff s).1 hf), hhalts⟩
  · exact ⟨hs, by simp, by simp, hhalts⟩
  · rw [State.setStep_status] at hhalts ⊢
    obtain ⟨-, -, ⟨hstatus, -⟩ | ⟨hstatus, o, rfl⟩⟩ := hu
    · rw [hstatus, hs] at hhalts ⊢
      exact ⟨rfl, by decide, by simp, hhalts⟩
    · exact ⟨hs, by simp [hstatus], fun _ => .inr ⟨hc, o, hf⟩, hhalts⟩

end Sys2Proof.Machine
end

section
/-! PROOFS. The records of one pass (47_execution_loop.md R166, R168; 48_host_interface.md R186). -/

namespace Sys2Proof.Machine

theorem stepRecords_of_dispatch {d : Decoded} {s t : State} (h : dispatch d s = .next t) :
    stepRecords d s = if t.status = .faulted then [] else stepOutput d s ++ [.trace (traceRecord d s t)] := by
  simp only [stepRecords, h]

/-- Only an OUTPUT has a record on the output stream. -/
theorem stepOutput_of_not_output {d : Decoded} (h : ∀ o, d ≠ .known (.output o)) (s : State) : stepOutput d s = [] := by
  unfold stepOutput
  split
  · exact absurd rfl (h _)
  · rfl

/-- Every OUTPUT that does not fault emits its record. -/
theorem outputRecord_of_exec {o : Operand} {s t : State} (h : exec (.output o) s = .next t) (hok : t.status ≠ .faulted) :
    ∃ r, outputRecord o s = some r := by
  by_cases hbare : o = ⟨.none, .acc, 0⟩
  · subst hbare
    exact ⟨_, (exec_output_of_ok (outputHandler_bare s)).2⟩
  rcases denotes_or_readFault o s with ⟨v, hv⟩ | ⟨e, he⟩
  · exact ⟨_, (exec_output_of_ok (outputHandler_of_denotes hv)).2⟩
  · rw [(exec_output_of_error (outputHandler_of_readFault hbare he)).1] at h
    cases h
    exact absurd rfl hok

theorem stepOutput_output {o : Operand} {s : State} {r : OutputRecord} (h : outputRecord o s = some r) :
    stepOutput (.known (.output o)) s = [.output r] := by
  simp only [stepOutput, h, Option.toList_some, List.map_cons, List.map_nil]

/-- Settles O50: a faulting step has no record; a completed one its trace record, after the output record of an OUTPUT. -/
theorem recordsOfAStep : Obligations.RecordsOfAStep := by
  intro c d s t hs hf hc hd
  have hrecords : passRecords c s = stepRecords d s := (loopPass_of_fetch hs hf hc).2
  rw [stepRecords_of_dispatch hd] at hrecords
  refine ⟨fun hfault => ?_, fun hok hd' => ?_, fun o hok ho => ?_⟩
  · rw [hrecords, if_pos hfault]
  · rw [hrecords, if_neg hok, stepOutput_of_not_output hd']
    rfl
  · subst ho
    obtain ⟨r, hr⟩ := outputRecord_of_exec hd hok
    refine ⟨r, hr, ?_⟩
    rw [hrecords, if_neg hok, stepOutput_output hr]
    rfl

end Sys2Proof.Machine
end

section
/-! PROOFS. The loop and the run (47_execution_loop.md R161, R172 to R176): what every pass keeps, every run keeps; and a measure that
every pass that goes on brings down. -/

namespace Sys2Proof.Machine

/-- The loop stops at once outside Running. -/
theorem loopFor_of_not_running {s : State} (hs : s.status ≠ .running) (c fuel : Nat) : loopFor c fuel s = (s, []) := by
  cases fuel with
  | zero => rfl
  | succ fuel => simp only [loopFor, loopPass_of_not_running hs]

theorem loopFor_of_next {c : Nat} {s t : State} (h : loopPass c s = .next t) (fuel : Nat) :
    loopFor c (fuel + 1) s = ((loopFor c fuel t).1, passRecords c s ++ (loopFor c fuel t).2) := by
  simp only [loopFor, h]

/-- Induction over the passes of a loop: it stops at once, or goes on from the next state of a pass. -/
theorem loopFor_induction {c : Nat} {P : State → Prop} (hpass : ∀ s t, P s → loopPass c s = .next t → P t)
    (fuel : Nat) {s : State} (hs : P s) : P (loopFor c fuel s).1 := by
  induction fuel generalizing s with
  | zero => exact hs
  | succ fuel ih =>
    by_cases hrun : s.status = .running
    · obtain ⟨t, ht⟩ := loopPass_total hrun c
      rw [loopFor_of_next ht]
      exact ih (hpass s t hs ht)
    · rw [loopFor_of_not_running hrun]
      exact hs

theorem loopFor_prog (c fuel : Nat) (s : State) : (loopFor c fuel s).1.prog = s.prog :=
  loopFor_induction (P := fun t => t.prog = s.prog) (fun _ _ hprog h => (loopPass_prog h).trans hprog) fuel rfl

theorem loopPass_step_le {c : Nat} {s t : State} (hle : s.step ≤ c) (h : loopPass c s = .next t) : t.step ≤ c := by
  obtain ⟨-, ⟨-, rfl⟩ | ⟨-, r, -, -, rfl⟩ | ⟨i, u, -, hc, -, -, rfl⟩⟩ := loopPass_ends h
  · exact hle
  · exact hle
  · rw [State.setStep_step]
    omega

/-- A pass ends the run, or counts one step and goes on. -/
theorem loopPass_ended_or_counts {c : Nat} {s t : State} (h : loopPass c s = .next t) :
    t.ended ∨ (t.status = .running ∧ t.step = s.step + 1 ∧ s.step ≠ c) := by
  obtain ⟨hs, ⟨-, rfl⟩ | ⟨-, r, -, -, rfl⟩ | ⟨i, u, -, hc, -, ⟨-, -, ⟨hstatus, -⟩ | ⟨hstatus, -⟩⟩, rfl⟩⟩ := loopPass_ends h
  · exact .inl (.inl rfl)
  · exact .inl (.inr rfl)
  · exact .inr ⟨hstatus.trans hs, rfl, hc⟩
  · exact .inl (.inl hstatus)

theorem not_running_of_ended {s : State} (h : s.ended) : s.status ≠ .running := by
  rcases h with h | h <;> rw [h] <;> decide

/-- A Running loop ends when its fuel exceeds the steps that are left below the ceiling. -/
theorem loopFor_ended {c fuel : Nat} {s : State} (hs : s.status = .running) (hle : s.step ≤ c)
    (hfuel : c < s.step + fuel) : (loopFor c fuel s).1.ended := by
  induction fuel generalizing s with
  | zero => omega
  | succ fuel ih =>
    obtain ⟨t, ht⟩ := loopPass_total hs c
    rw [loopFor_of_next ht]
    rcases loopPass_ended_or_counts ht with hended | ⟨hrun, hstep, hc⟩
    · rw [loopFor_of_not_running (not_running_of_ended hended)]
      exact hended
    · exact ih hrun (by omega) (by omega)

theorem runProgram_of_prog_ne_nil {s : State} (h : s.prog ≠ []) (c : Nat) :
    runProgram c s = loopFor c (c + 1) (enterRun s) :=
  if_neg h

theorem runProgram_of_prog_nil {s : State} (h : s.prog = []) (c : Nat) : runProgram c s = (emptyProgramEntry s, []) :=
  if_pos h

/-- Settles O51: from STEP = 0 the ceiling leaves `c` steps, one less than the fuel of a run. -/
theorem everyRunEnds : Obligations.EveryRunEnds := by
  intro c s
  by_cases hprog : s.prog = []
  · rw [runProgram_of_prog_nil hprog]
    exact ⟨.inr rfl, rfl, fun hne => absurd hprog hne⟩
  · rw [runProgram_of_prog_ne_nil hprog]
    have hzero : (enterRun s).step = 0 := rfl
    refine ⟨loopFor_ended rfl (by omega) (by omega), loopFor_prog c (c + 1) (enterRun s), fun _ => ?_⟩
    exact loopFor_induction (P := fun t => t.step ≤ c) (fun _ _ => loopPass_step_le) (c + 1) (by omega)

/-- The trace records of one pass number the steps that it completes, one or none, from STEP on. -/
theorem passRecords_trace {c : Nat} {s t : State} (h : loopPass c s = .next t) :
    ∃ k, t.step = s.step + k ∧ (traceStream (passRecords c s)).map (fun r => r.step) = List.range' s.step k := by
  obtain ⟨hs, ⟨hf, rfl⟩ | ⟨d, hf, hc, rfl⟩ | ⟨k, o, hf, hc, rfl⟩ | ⟨i, u, hf, hc, hx, rfl⟩⟩ := loopPass_cases h
  · exact ⟨0, rfl, by rw [(loopPass_of_exhausted hs hf c).2]; rfl⟩
  · exact ⟨0, rfl, by rw [(loopPass_of_ceiling hs hf hc).2]; rfl⟩
  · exact ⟨0, rfl, by rw [(recordsOfAStep c _ s _ hs hf hc rfl).1 rfl]; rfl⟩
  · obtain ⟨hfaults, hplain, houtput⟩ := recordsOfAStep c _ s u hs hf hc hx
    have hstep := exec_step hx
    rcases countStep_cases u with ⟨hfault, hcount⟩ | ⟨hok, hcount⟩
    · exact ⟨0, by rw [hcount, hstep, Nat.add_zero], by rw [hfaults hfault]; rfl⟩
    · refine ⟨1, by rw [hcount, hstep, State.setStep_step], ?_⟩
      by_cases hi : ∃ o, i = .output o
      · obtain ⟨o, rfl⟩ := hi
        obtain ⟨r, -, hrecords⟩ := houtput o hok rfl
        rw [hrecords]
        rfl
      · rw [hplain hok fun o ho => hi ⟨o, by injection ho⟩]
        rfl

/-- The trace of a loop numbers the steps from STEP at its start to STEP at its end. -/
theorem loopFor_trace (c fuel : Nat) (s : State) :
    ∃ k, (loopFor c fuel s).1.step = s.step + k ∧
      (traceStream (loopFor c fuel s).2).map (fun r => r.step) = List.range' s.step k := by
  induction fuel generalizing s with
  | zero => exact ⟨0, rfl, rfl⟩
  | succ fuel ih =>
    by_cases hrun : s.status = .running
    · obtain ⟨t, ht⟩ := loopPass_total hrun c
      obtain ⟨k, hk, htrace⟩ := passRecords_trace ht
      obtain ⟨l, hl, hrest⟩ := ih t
      refine ⟨k + l, by rw [loopFor_of_next ht, hl, hk, Nat.add_assoc], ?_⟩
      rw [loopFor_of_next ht, traceStream_append, List.map_append, htrace, hrest, hk, List.range'_append_1]
    · rw [loopFor_of_not_running hrun]
      exact ⟨0, rfl, rfl⟩

/-- Settles O52: a run starts at STEP = 0. -/
theorem traceNumbersTheSteps : Obligations.TraceNumbersTheSteps := by
  intro c s hprog
  rw [runProgram_of_prog_ne_nil hprog]
  obtain ⟨k, hk, htrace⟩ := loopFor_trace c (c + 1) (enterRun s)
  have hzero : (enterRun s).step = 0 := rfl
  rw [hzero, Nat.zero_add] at hk
  rw [htrace, hk, hzero, List.range_eq_range']

/-- Run entry overwrites PC, STEP, STATUS and ERR, whatever they were. -/
theorem enterRun_congr {s t : State} (hprog : t.prog = s.prog) (hacc : t.acc = s.acc) (hr1 : t.r1 = s.r1)
    (hr2 : t.r2 = s.r2) (hmem : t.mem = s.mem) : enterRun t = enterRun s := by
  obtain ⟨acc, r1, r2, pc, mem, prog, status, step, err⟩ := s
  subst hprog hacc hr1 hr2 hmem
  rfl

/-- Settles O53: the two runs start from the same state. -/
theorem runDependsOnRegistersMemoryProgram : Obligations.RunDependsOnRegistersMemoryProgram := by
  intro c s t hne hprog hacc hr1 hr2 hmem
  have hne' : t.prog ≠ [] := hprog ▸ hne
  rw [runProgram_of_prog_ne_nil hne, runProgram_of_prog_ne_nil hne', enterRun_congr hprog hacc hr1 hr2 hmem]

end Sys2Proof.Machine
end

section
/-! PROOFS. Construction and the host's transactions (48_host_interface.md R180 to R185). -/

namespace Sys2Proof.Machine

theorem whenIdle_of_not_running {α : Type} {s : State} (hs : s.status ≠ .running) (r : Except HostError α) :
    whenIdle s r = r :=
  if_neg hs

theorem whenIdle_of_running {α : Type} {s : State} (hs : s.status = .running) (r : Except HostError α) :
    whenIdle s r = .error .runInProgress :=
  if_pos hs

/-- A request that is served was made outside a run. -/
theorem whenIdle_ok {α : Type} {s : State} {r : Except HostError α} {x : α} (h : whenIdle s r = .ok x) :
    s.status ≠ .running ∧ r = .ok x := by
  by_cases hs : s.status = .running
  · rw [whenIdle_of_running hs] at h
    cases h
  · exact ⟨hs, (whenIdle_of_not_running hs r).symm.trans h⟩

/-- Memory after construction reads 0 at every address it has. -/
theorem memRead_constructed {size : Nat} {a : Int} (h0 : 0 ≤ a) (h : a < size) :
    memRead a (State.constructed size) = .ok 0 :=
  memRead_of_inRange ⟨h0, h⟩

/-- Settles O9: both parameters are positive or the construction is refused; the fields are those of `State.constructed`. -/
theorem constructionValues : Obligations.ConstructionValues := by
  intro m c
  refine ⟨fun hpos => ?_, fun hneg => if_neg hneg⟩
  have hsize : (m.toNat : Int) = m := Int.toNat_of_nonneg (by omega)
  refine ⟨State.constructed m.toNat, if_pos hpos, hsize, fun a h0 ha => ?_, rfl, rfl, rfl, rfl, rfl, rfl, rfl, rfl⟩
  exact memRead_constructed h0 (hsize.symm ▸ ha)

/-- Settles O10: reset is construction with 100 cells. -/
theorem resetMemoryIsZeroAndIdle : Obligations.ResetMemoryIsZeroAndIdle :=
  ⟨rfl, rfl, fun _ h0 h => memRead_constructed h0 h⟩

/-- Settles O11: memory of zeros lists no cell, and there is neither a report nor a step. -/
theorem resetSatisfiesInv : Obligations.ResetSatisfiesInv :=
  ⟨Memory.zeroed_wf (by decide), by decide, Nat.zero_le _⟩

/-- A run from any state that meets the invariant keeps it: run entry sets it up again, and every pass keeps it. -/
theorem runProgram_inv {c : Nat} {s : State} (hinv : s.InvUnder c) : (runProgram c s).1.InvUnder c := by
  obtain ⟨hmem, -, hle⟩ := hinv
  by_cases hprog : s.prog = []
  · rw [runProgram_of_prog_nil hprog]
    exact ⟨hmem, by simp [emptyProgramEntry], hle⟩
  · rw [runProgram_of_prog_ne_nil hprog]
    have hentry : (enterRun s).InvUnder c := ⟨hmem, by simp [enterRun], Nat.zero_le c⟩
    exact loopFor_induction (P := fun t => t.InvUnder c) (fun _ _ => loopPass_inv) (c + 1) hentry

/-- A host write of memory that is served is in range. -/
theorem hostWriteMem_ok {a : Int} {v : Value} {s t : State} (h : hostWriteMem a v s = .ok t) :
    s.mem.inRange a ∧ t = s.setMem (s.mem.put a.toNat v) := by
  obtain ⟨-, hwrite⟩ := whenIdle_ok h
  split at hwrite
  case isTrue hin => cases hwrite; exact ⟨hin, rfl⟩
  case isFalse => cases hwrite

theorem hostWritePc_ok {n : Int} {s t : State} (h : hostWritePc n s = .ok t) : t = s.setPc n.toNat := by
  obtain ⟨-, hwrite⟩ := whenIdle_ok h
  split at hwrite
  · cases hwrite; rfl
  · cases hwrite

/-- Settles O13: a load clears STATUS and ERR together, a run keeps the invariant, and a write leaves STATUS, ERR and STEP alone. -/
theorem hostTransactionsKeepInv : Obligations.HostTransactionsKeepInv := by
  intro c s t hinv htrans
  have hinv' := hinv
  obtain ⟨hmem, herr, hle⟩ := hinv
  rcases htrans with ⟨p, h⟩ | ⟨rs, h⟩ | ⟨r, v, h⟩ | ⟨n, h⟩ | ⟨a, v, h⟩
  · obtain ⟨-, hload⟩ := whenIdle_ok h
    cases hload
    exact ⟨hmem, by simp [loadProgram], hle⟩
  · obtain ⟨-, hrun⟩ := whenIdle_ok h
    injection hrun with hrun
    have hkeep := runProgram_inv hinv'
    rwa [hrun] at hkeep
  · obtain ⟨-, hwrite⟩ := whenIdle_ok h
    cases hwrite
    cases r <;> exact ⟨hmem, herr, hle⟩
  · rw [hostWritePc_ok h]
    exact ⟨hmem, herr, hle⟩
  · obtain ⟨⟨hlo, hhi⟩, rfl⟩ := hostWriteMem_ok h
    have hcell : a.toNat < s.mem.size := by omega
    exact ⟨Memory.put_wf hmem hcell v, herr, hle⟩

/-- Settles O54: run entry by its own test; the fault entries of a pass are of other kinds. -/
theorem emptyProgramIsRaisedByRunEntryOnly : Obligations.EmptyProgramIsRaisedByRunEntryOnly := by
  refine ⟨fun c s hs hprog => ?_, fun s t r h hr hkind => ?_⟩
  · rw [hostRun, whenIdle_of_not_running hs, runProgram_of_prog_nil hprog]
    rfl
  · obtain ⟨-, ⟨-, rfl⟩ | ⟨-, r', -, hkind', rfl⟩ | ⟨i, u, -, -, -, ⟨herr, -, -⟩, rfl⟩⟩ := loopPass_ends h
    · exact hr
    · cases hr
      exact absurd hkind hkind'
    · exact herr.symm.trans hr

/-- Settles O55: a load is served outside a run and is three writes. -/
theorem loadReplacesOnlyTheProgram : Obligations.LoadReplacesOnlyTheProgram := fun _ _ hs =>
  whenIdle_of_not_running hs _

/-- Outside a run a host read is the machine's own, with the host's error. -/
theorem hostReadMem_eq_memRead {s : State} (hs : s.status ≠ .running) (a : Int) :
    hostReadMem a s = (memRead a s).mapError fun _ => .outOfRangeAddress a := by
  rw [hostReadMem, whenIdle_of_not_running hs, memRead]
  split <;> rfl

/-- Outside a run a host write is the machine's own, with the host's error. -/
theorem hostWriteMem_eq_memWrite {s : State} (hs : s.status ≠ .running) (a : Int) (v : Value) :
    hostWriteMem a v s = (memWrite a v s).mapError fun _ => .outOfRangeAddress a := by
  rw [hostWriteMem, whenIdle_of_not_running hs, memWrite]
  split <;> rfl

/-- Settles O56: outside a run the host's access is MemRead and MemWrite, so their laws are its laws. -/
theorem hostMemoryAccess : Obligations.HostMemoryAccess := by
  intro a v s
  refine ⟨fun hs hin => ?_, fun hs hout => ?_, fun hs => ⟨whenIdle_of_running hs _, whenIdle_of_running hs _⟩⟩
  · have ht : (s.setMem (s.mem.put a.toNat v)).status ≠ .running := hs
    refine ⟨_, by rw [hostWriteMem_eq_memWrite hs, memWrite_of_inRange hin]; rfl, ?_, fun b hb => ?_, rfl⟩
    · rw [hostReadMem_eq_memRead ht, memRead_setMem_put_same hin]
      rfl
    · rw [hostReadMem_eq_memRead ht, hostReadMem_eq_memRead hs, memRead_setMem_put_of_ne hin hb]
  · rw [hostWriteMem_eq_memWrite hs, hostReadMem_eq_memRead hs, memWrite_of_not_inRange hout, memRead_of_not_inRange hout]
    exact ⟨rfl, rfl⟩

end Sys2Proof.Machine
end

section
/-! PROOFS. The output stream at the text level (43_output.md R140): the fetched OUTPUT is the assembled pair at its index, so its record
names that pair's token. -/

namespace Sys2Proof.Machine

theorem prefixedOperand_mode_ne_none {m : Mode} (hm : m ≠ .none) (p : Text) : (prefixedOperand m p).mode ≠ .none := by
  unfold prefixedOperand
  split
  · exact hm
  · simp [badOperand]

theorem indexedOperand_mode_ne_none (off name : Text) : (indexedOperand off name).mode ≠ .none := by
  unfold indexedOperand
  cases indexName name with
  | acc | other => simp
  | r1 | r2 => by_cases hoff : isInt off = true <;> simp [hoff, badOperand]

theorem plainOperand_mode_ne_none (t : Text) : (plainOperand t).mode ≠ .none := by
  unfold plainOperand
  split_ifs <;> simp [badOperand]

theorem unprefixedOperand_mode_ne_none (t : Text) : (unprefixedOperand t).mode ≠ .none := by
  unfold unprefixedOperand
  split
  · split
    · exact indexedOperand_mode_ne_none _ _
    · exact plainOperand_mode_ne_none t
  · exact plainOperand_mode_ne_none t

/-- A token that is present is never mode NONE, so it is no bare OUTPUT's. -/
theorem tokenize_some_mode_ne_none (t : Text) : (tokenize (some t)).mode ≠ .none := by
  cases t with
  | nil => simp [tokenize, badOperand]
  | cons c p =>
    rw [tokenize]
    split
    · exact prefixedOperand_mode_ne_none (by decide) p
    split
    · exact prefixedOperand_mode_ne_none (by decide) p
    split
    · exact prefixedOperand_mode_ne_none (by decide) p
    · exact unprefixedOperand_mode_ne_none (c :: p)

theorem tokenize_some_ne_bare (t : Text) : tokenize (some t) ≠ ⟨.none, .acc, 0⟩ := by
  intro h
  have hmode := tokenize_some_mode_ne_none t
  rw [h] at hmode
  exact hmode rfl

/-- Whatever the mnemonic is, the operand fields are those of the token. -/
theorem operand_assemble (m : Text) (tok : Option Text) : (assemble m tok).operand = tokenize tok := by
  unfold assemble instrOfText
  split_ifs <;> rfl

/-- A text program fetches the assembled pair at PC. -/
theorem fetch_textProgram {s : State} {ts : List (Text × Option Text)} (hprog : s.prog = textProgram ts) :
    fetch s = ts[s.pc]?.map fun t => assemble t.1 t.2 := by
  rw [fetch, hprog, textProgram, List.getElem?_map]

theorem tokenAt_of_getElem? {ts : List (Text × Option Text)} {pc : Nat} {m : Text} {tok : Option Text}
    (h : ts[pc]? = some (m, tok)) : tokenAt ts pc = tok := by
  rw [tokenAt, h, Option.bind_some]

/-- A completed OUTPUT adds to the text stream its record under the token at its index. -/
theorem textOutputStream_pass_of_ok {s : State} {o : Operand} {c : Nat} {r : OutputRecord} (ts : List (Text × Option Text))
    (hs : s.status = .running) (hf : fetch s = some (.known (.output o))) (hc : s.step ≠ c)
    (h : outputHandler o s = .ok (r, s.advance)) :
    textOutputStream ts (passRecords c s) = [withToken (tokenAt ts s.pc) r] := by
  obtain ⟨hx, hr⟩ := exec_output_of_ok h
  have hok : s.advance.status ≠ .faulted := by
    rw [State.advance_status, hs]
    decide
  obtain ⟨-, -, houtput⟩ := recordsOfAStep c _ s _ hs hf hc hx
  obtain ⟨r', hr', hrecords⟩ := houtput o hok rfl
  obtain rfl : r = r' := by
    rw [hr] at hr'
    injection hr'
  rw [hrecords]
  rfl

theorem textOutputStream_pass_of_error {s : State} {o : Operand} {c : Nat} {e : Raise} (ts : List (Text × Option Text))
    (hs : s.status = .running) (hf : fetch s = some (.known (.output o))) (hc : s.step ≠ c)
    (h : outputHandler o s = .error e) : textOutputStream ts (passRecords c s) = [] := by
  have hx := (exec_output_of_error h).1
  rw [(recordsOfAStep c _ s _ hs hf hc hx).1 rfl]
  rfl

/-- Settles O57: the three ends of OUTPUT's handler, at the pair that PC selects. -/
theorem outputRecordCarriesTheToken : Obligations.OutputRecordCarriesTheToken := by
  intro c s ts m tok hprog hs hc hpair hm
  have hf : fetch s = some (.known (.output (tokenize tok))) := by
    rw [fetch_textProgram hprog, hpair, hm]
    exact congrArg some (instrOfText_mnemonic (.output (tokenize tok)))
  have htoken := tokenAt_of_getElem? hpair
  refine ⟨?_, fun v hv => ?_, fun e hne he => ?_⟩
  · rintro rfl
    rw [textOutputStream_pass_of_ok ts hs hf hc (outputHandler_bare s), htoken]
    rfl
  · rw [textOutputStream_pass_of_ok ts hs hf hc (outputHandler_of_denotes hv), htoken]
    rfl
  · obtain ⟨t, rfl⟩ := Option.ne_none_iff_exists'.1 hne
    exact textOutputStream_pass_of_error ts hs hf hc (outputHandler_of_readFault (tokenize_some_ne_bare t) he)

/-- The record of an OUTPUT names the operand fields it resolved, and none when it is bare. -/
theorem outputRecord_operand {o : Operand} {s : State} {r : OutputRecord} (h : outputRecord o s = some r) :
    r.operand = if o = ⟨.none, .acc, 0⟩ then none else some o := by
  by_cases hbare : o = ⟨.none, .acc, 0⟩
  · subst hbare
    rw [(exec_output_of_ok (outputHandler_bare s)).2] at h
    cases h
    rfl
  rw [if_neg hbare]
  rcases denotes_or_readFault o s with ⟨v, hv⟩ | ⟨e, he⟩
  · rw [(exec_output_of_ok (outputHandler_of_denotes hv)).2] at h
    cases h
    rfl
  · rw [(exec_output_of_error (outputHandler_of_readFault hbare he)).2] at h
    cases h

/-- The token at the index of a fetched OUTPUT tokenizes to the operand that its record names. -/
theorem tokenAt_of_outputRecord {s : State} {ts : List (Text × Option Text)} {o : Operand} {r : OutputRecord}
    (hprog : s.prog = textProgram ts) (hf : fetch s = some (.known (.output o))) (hr : outputRecord o s = some r) :
    (tokenAt ts s.pc).map (fun t => tokenize (some t)) = r.operand := by
  rw [fetch_textProgram hprog, Option.map_eq_some_iff] at hf
  obtain ⟨⟨m, tok⟩, hpair, hassemble⟩ := hf
  obtain rfl : tokenize tok = o := by rw [← operand_assemble m tok, hassemble]; rfl
  rw [tokenAt_of_getElem? hpair, outputRecord_operand hr]
  cases tok with
  | none => rfl
  | some t => rw [if_neg (tokenize_some_ne_bare t), Option.map_some]

theorem decoded_withToken {token : Option Text} {r : OutputRecord}
    (h : token.map (fun t => tokenize (some t)) = r.operand) : (withToken token r).decoded = r := by
  simp only [TextOutputRecord.decoded, withToken, h]

/-- The two output streams agree on the records of one pass. -/
theorem decoded_textOutputStream_pass {s : State} {ts : List (Text × Option Text)} (hprog : s.prog = textProgram ts) (c : Nat) :
    (textOutputStream ts (passRecords c s)).map TextOutputRecord.decoded = outputStream (passRecords c s) := by
  rcases passRecords_cases c s with h | ⟨d, t, -, h⟩ | ⟨o, r, t, hf, hr, h⟩
  · rw [h]
    rfl
  · rw [h]
    rfl
  · rw [h]
    exact congrArg (· :: []) (decoded_withToken (tokenAt_of_outputRecord hprog hf hr))

/-- They agree on the records of a whole loop, as no pass writes the program. -/
theorem decoded_textOutputStream_loopFor {s : State} {ts : List (Text × Option Text)} (hprog : s.prog = textProgram ts)
    (c fuel : Nat) :
    (textOutputStream ts (loopFor c fuel s).2).map TextOutputRecord.decoded = outputStream (loopFor c fuel s).2 := by
  induction fuel generalizing s with
  | zero => rfl
  | succ fuel ih =>
    by_cases hrun : s.status = .running
    · obtain ⟨t, ht⟩ := loopPass_total hrun c
      rw [loopFor_of_next ht, textOutputStream_pass_append, outputStream_append, List.map_append,
        decoded_textOutputStream_pass hprog, ih ((loopPass_prog ht).trans hprog)]
    · rw [loopFor_of_not_running hrun]
      rfl

/-- Settles O58: an empty program runs no pass; any other runs the loop from its run entry, which keeps the program. -/
theorem textOutputStreamTokenizesToTheOutputStream : Obligations.TextOutputStreamTokenizesToTheOutputStream := by
  intro c s ts hprog
  by_cases hempty : s.prog = []
  · rw [runProgram_of_prog_nil hempty]
    rfl
  · rw [runProgram_of_prog_ne_nil hempty]
    have hentry : (enterRun s).prog = textProgram ts := hprog
    exact decoded_textOutputStream_loopFor hentry c (c + 1)

end Sys2Proof.Machine
end
